-- ==== Sys2Proof/Word.lean ====
section
/-! DEFINITION. The word types: bytes of the command port, 256-bit scalar registers, sign-and-magnitude
registers (spec/10_state.md rules R20 to R23, spec/30_encoding.md rule R100). -/

namespace Sys2Proof

/-- One byte of the command port (R11). -/
abbrev Byte := BitVec 8

/-- A 256-bit scalar register or payload (R20, R21, R84). -/
abbrev Scalar := BitVec 256

/-- A SignedInteger register: bit 129 is `neg`, bits 128:0 are `mag` (R22, MAG_BITS = 129 of R6).
The 130-bit image is `SignedInt.image` of Machine/Operands.lean. -/
structure SignedInt where
  neg : Bool
  mag : BitVec 129
deriving DecidableEq, Repr, Inhabited

end Sys2Proof
end

