-- ==== Sys2Proof/Config.lean ====
section
/-! DEFINITION. What is fixed for the machine: the numeric parameters of spec/00_scope.md rule R6, the group
parameters of rule R8 (an arbitrary abelian group with its encoding, decision D12, left OPEN by the spec), and
the free values that stand for register contents the spec leaves unspecified (spec/10_state.md rule R50). -/

namespace Sys2Proof

/-! ### Numeric parameters (R6) -/

/-- `ELL`: the prime order of the Ed25519 base-point subgroup, `2^252 + 27742317777372353535851937790883648493`
(R6, R7). -/
def Config.ell : Nat := 7237005577332262213973186563042994240857116359379907606001950938285454250989

/-- `SCALAR_BYTES` (R6): length of a scalar payload. -/
def Config.scalarBytes : Nat := 32

/-- `MAG_BITS` (R6): width of a SignedInteger magnitude. -/
def Config.magBits : Nat := 129

/-- `NAF_LEN` (R6): digits per signed-digit array. -/
def Config.nafLen : Nat := 256

/-- `W_VAR` (R6): window width for the variable points. -/
def Config.wVar : Nat := 5

/-- `W_FIX` (R6): window width for the fixed bases. -/
def Config.wFix : Nat := 8

/-- `TBL_VAR = 2^(W_VAR−2)` (R6): entries of a variable-point table. -/
def Config.tblVar : Nat := 8

/-- `TBL_FIX = 2^(W_FIX−2)` (R6): entries of a static table. -/
def Config.tblFix : Nat := 64

/-- `SPLIT_BITS` (R6): where `db` is cut into `e0` and `e1`. -/
def Config.splitBits : Nat := 128

theorem Config.ell_eq : Config.ell = 2 ^ 252 + 27742317777372353535851937790883648493 := by
  norm_num [Config.ell]

theorem Config.ell_pos : 0 < Config.ell := by norm_num [Config.ell]

/-! ### The group parameters (R8, R13, R160) -/

/-- The operations of the group parameter `G` (R8, R160) and scalar multiplication `[k]P` (R13). -/
structure GroupOps (α : Type) where
  /-- `ident` -/
  ident : α
  /-- `gadd` -/
  gadd : α → α → α
  /-- `gneg` -/
  gneg : α → α
  /-- `gdouble` -/
  gdouble : α → α
  /-- `[k]P` -/
  smul : Int → α → α
  /-- `B` -/
  base : α

/-- The operations form an abelian group (R8, R160), and `[k]P` is what its three equations say (R13). Nothing is
said of the base point. -/
structure GroupOps.Abelian {α : Type} (G : GroupOps α) : Prop where
  gadd_assoc : ∀ P Q S, G.gadd (G.gadd P Q) S = G.gadd P (G.gadd Q S)
  gadd_comm : ∀ P Q, G.gadd P Q = G.gadd Q P
  gadd_ident : ∀ P, G.gadd P G.ident = P
  gadd_gneg : ∀ P, G.gadd P (G.gneg P) = G.ident
  gdouble_eq : ∀ P, G.gdouble P = G.gadd P P
  smul_zero : ∀ P, G.smul 0 P = G.ident
  smul_succ : ∀ (k : Nat) P, G.smul ((k : Int) + 1) P = G.gadd (G.smul k P) P
  smul_neg : ∀ (k : Nat) P, G.smul (-(k : Int)) P = G.gneg (G.smul k P)

/-- Everything the rules assume of the group: an abelian group in which `[ELL]B = ident` (R8). -/
structure GroupOps.Lawful {α : Type} (G : GroupOps α) : Prop extends G.Abelian where
  ell_base : G.smul Config.ell G.base = G.ident

/-- An element of a group of `n + 1` elements, named by a number. DEDUCED (log 2): `pt_encode` has a left
inverse into strings of `POINT_BYTES` bytes (R8), so `G` is finite and its elements can be numbered; which
number an element has is as unobservable as its coordinates (R24). -/
structure PointOf (n : Nat) where
  index : Fin (n + 1)
deriving DecidableEq, Repr, Inhabited

/-- The external collaborators of R8 as one bundle, with everything the rules assume of them. -/
structure GroupParams where
  /-- The group has `orderPred + 1` elements. -/
  orderPred : Nat
  ops : GroupOps (PointOf orderPred)
  lawful : ops.Lawful
  /-- `POINT_BYTES` -/
  pointBytes : Nat
  pointBytes_pos : 0 < pointBytes
  /-- `pt_decode`: a partial function on strings of `POINT_BYTES` bytes (log 3: it refuses any other length). -/
  ptDecode : List Byte → Option (PointOf orderPred)
  /-- `pt_encode` -/
  ptEncode : PointOf orderPred → List Byte
  ptDecode_length : ∀ bs P, ptDecode bs = some P → bs.length = pointBytes
  ptEncode_length : ∀ P, (ptEncode P).length = pointBytes
  ptDecode_ptEncode : ∀ P, ptDecode (ptEncode P) = some P

/-! ### The test instantiation Z (spec/95_test_vectors.md section 1.3)

Integers mod ELL under addition, `B = 1`. It shows that the assumptions of R8 can be met; the machine does not
use it. -/

theorem Config.z_bound (x : Int) : (x % (Config.ell : Int)).toNat < Config.ell - 1 + 1 := by
  have hp : (0 : Int) < (Config.ell : Int) := by exact_mod_cast Config.ell_pos
  have h0 := Int.emod_nonneg x hp.ne'
  have h1 := Int.emod_lt_of_pos x hp
  omega

/-- The residue of an integer mod ELL as an element of Z. -/
def Config.zOf (x : Int) : PointOf (Config.ell - 1) :=
  ⟨⟨(x % (Config.ell : Int)).toNat, Config.z_bound x⟩⟩

/-- The integer in `0..ELL−1` that an element of Z is. -/
def Config.zVal (P : PointOf (Config.ell - 1)) : Int := (P.index.val : Int)

theorem Config.zVal_zOf (x : Int) : Config.zVal (Config.zOf x) = x % (Config.ell : Int) := by
  have hp : (0 : Int) < (Config.ell : Int) := by exact_mod_cast Config.ell_pos
  simp only [Config.zVal, Config.zOf, Int.toNat_of_nonneg (Int.emod_nonneg x hp.ne')]

theorem Config.zOf_zVal (P : PointOf (Config.ell - 1)) : Config.zOf (Config.zVal P) = P := by
  have hp := Config.ell_pos
  obtain ⟨⟨v, hv⟩⟩ := P
  simp only [Config.zVal, Config.zOf, PointOf.mk.injEq, Fin.mk.injEq]
  rw [Int.emod_eq_of_lt (by omega) (by omega)]
  simp

theorem Config.zOf_congr {x y : Int} (h : x % (Config.ell : Int) = y % (Config.ell : Int)) :
    Config.zOf x = Config.zOf y := by
  simp only [Config.zOf, h]

/-- The operations of Z. -/
def Config.zOps : GroupOps (PointOf (Config.ell - 1)) where
  ident := Config.zOf 0
  gadd P Q := Config.zOf (Config.zVal P + Config.zVal Q)
  gneg P := Config.zOf (-Config.zVal P)
  gdouble P := Config.zOf (Config.zVal P + Config.zVal P)
  smul k P := Config.zOf (k * Config.zVal P)
  base := Config.zOf 1

theorem Config.zOps_lawful : Config.zOps.Lawful where
  gadd_assoc P Q S := by
    simp only [Config.zOps, Config.zVal_zOf]
    exact Config.zOf_congr (by simp [Int.add_assoc])
  gadd_comm P Q := by simp only [Config.zOps, Int.add_comm]
  gadd_ident P := by
    simp only [Config.zOps, Config.zVal_zOf, Int.zero_emod, Int.add_zero, Config.zOf_zVal]
  gadd_gneg P := by
    simp only [Config.zOps, Config.zVal_zOf]
    exact Config.zOf_congr (by simp [Int.add_emod_emod])
  gdouble_eq P := rfl
  smul_zero P := by simp only [Config.zOps, Int.zero_mul]
  smul_succ k P := by
    simp only [Config.zOps, Config.zVal_zOf]
    exact Config.zOf_congr (by rw [Int.emod_add_emod, Int.add_mul, Int.one_mul])
  smul_neg k P := by
    simp only [Config.zOps, Config.zVal_zOf]
    exact Config.zOf_congr (by rw [Int.neg_mul]; exact (Int.ModEq.neg (Int.mod_modEq _ _)).symm)
  ell_base := by
    simp only [Config.zOps, Config.zVal_zOf]
    exact Config.zOf_congr (by simp)

/-- The `n` low bytes of `x`, least significant first. -/
def Config.zBytes : Nat → Nat → List Byte
  | 0, _ => []
  | n + 1, x => BitVec.ofNat 8 x :: Config.zBytes n (x / 256)

/-- The integer that bytes spell, least significant first. -/
def Config.zValue : List Byte → Nat
  | [] => 0
  | b :: bs => b.toNat + 256 * Config.zValue bs

theorem Config.zBytes_length (n x : Nat) : (Config.zBytes n x).length = n := by
  induction n generalizing x with
  | zero => rfl
  | succ n ih => simp [Config.zBytes, ih]

theorem Config.zValue_zBytes (n x : Nat) : Config.zValue (Config.zBytes n x) = x % 256 ^ n := by
  induction n generalizing x with
  | zero => simp [Config.zBytes, Config.zValue, Nat.mod_one]
  | succ n ih =>
    rw [Config.zBytes, Config.zValue, ih, BitVec.toNat_ofNat, show 256 ^ (n + 1) = 256 * 256 ^ n from
      Nat.pow_succ', Nat.mod_mul, show (2 : Nat) ^ 8 = 256 from rfl]

/-- `pt_encode` of Z: the 32 little-endian bytes of the residue. -/
def Config.zEncode (P : PointOf (Config.ell - 1)) : List Byte := Config.zBytes 32 P.index.val

/-- `pt_decode` of Z: the little-endian value of 32 bytes when it is below ELL, else refused. -/
def Config.zDecode (bs : List Byte) : Option (PointOf (Config.ell - 1)) :=
  if bs.length = 32 then
    if h : Config.zValue bs < Config.ell - 1 + 1 then some ⟨⟨Config.zValue bs, h⟩⟩ else none
  else none

theorem Config.zDecode_length (bs : List Byte) (P : PointOf (Config.ell - 1))
    (h : Config.zDecode bs = some P) : bs.length = 32 := by
  unfold Config.zDecode at h
  split at h
  · assumption
  · cases h

theorem Config.zDecode_zEncode (P : PointOf (Config.ell - 1)) :
    Config.zDecode (Config.zEncode P) = some P := by
  obtain ⟨⟨v, hv⟩⟩ := P
  have hs : Config.zValue (Config.zBytes 32 v) = v := by
    rw [Config.zValue_zBytes]
    exact Nat.mod_eq_of_lt (Nat.lt_trans hv (by norm_num [Config.ell]))
  simp only [Config.zDecode, Config.zEncode, Config.zBytes_length, hs, hv, if_true, dif_pos]

/-- Test instantiation Z as a bundle of group parameters. -/
def Config.zParams : GroupParams where
  orderPred := Config.ell - 1
  ops := Config.zOps
  lawful := Config.zOps_lawful
  pointBytes := 32
  pointBytes_pos := by norm_num
  ptDecode := Config.zDecode
  ptEncode := Config.zEncode
  ptDecode_length := Config.zDecode_length
  ptEncode_length P := Config.zBytes_length 32 P.index.val
  ptDecode_ptEncode := Config.zDecode_zEncode

/-! ### The machine's group: an arbitrary bundle (decision D12, OPEN) -/

/-- Some bundle of group parameters, given that there is one: a constant without a body, of which nothing can be
proved but the laws that every `GroupParams` carries (log 2). -/
opaque Config.someParams [Inhabited GroupParams] : GroupParams

/-- The group parameters of this machine (R8): arbitrary. Z only shows that the type is inhabited. -/
def Config.params : GroupParams := @Config.someParams ⟨Config.zParams⟩

/-- An element of `G`, what a point register holds (R24, R25). -/
abbrev Point := PointOf Config.params.orderPred

/-- The group operations of this machine. -/
def Config.group : GroupOps Point := Config.params.ops

theorem Config.group_lawful : Config.group.Lawful := Config.params.lawful

/-- `POINT_BYTES` of this machine: some positive number (R8). -/
def Config.pointBytes : Nat := Config.params.pointBytes

theorem Config.pointBytes_pos : 0 < Config.pointBytes := Config.params.pointBytes_pos

/-- `pt_decode` of this machine: external decompression (R8, R93). -/
def Config.ptDecode (bs : List Byte) : Option Point := Config.params.ptDecode bs

/-- `pt_encode` of this machine: external canonical encoding (R8, R86). -/
def Config.ptEncode (P : Point) : List Byte := Config.params.ptEncode P

theorem Config.ptDecode_length {bs : List Byte} {P : Point} (h : Config.ptDecode bs = some P) :
    bs.length = Config.pointBytes := Config.params.ptDecode_length bs P h

@[simp] theorem Config.ptEncode_length (P : Point) : (Config.ptEncode P).length = Config.pointBytes :=
  Config.params.ptEncode_length P

@[simp] theorem Config.ptDecode_ptEncode (P : Point) : Config.ptDecode (Config.ptEncode P) = some P :=
  Config.params.ptDecode_ptEncode P

/-! ### Free values: register contents the spec leaves unspecified (R50, R222, R260, R263)

The argument is how many times the block has returned to its reset state (log 4, log 5): each return leaves new
contents that nothing constrains. -/

/-- What `A` holds after the `n`-th return to the reset state. -/
opaque Config.freeA : Nat → Scalar
/-- What `SA` holds after the `n`-th return to the reset state. -/
opaque Config.freeSA : Nat → Scalar
/-- What `SB` holds after the `n`-th return to the reset state. -/
opaque Config.freeSB : Nat → Scalar
/-- What `D0` holds after the `n`-th return to the reset state. -/
opaque Config.freeD0 : Nat → SignedInt
/-- What `D1` holds after the `n`-th return to the reset state. -/
opaque Config.freeD1 : Nat → SignedInt
/-- What `PTA` holds after the `n`-th return to the reset state. -/
opaque Config.freePTA : Nat → Point
/-- What `PTC` holds after the `n`-th return to the reset state. -/
opaque Config.freePTC : Nat → Point
/-- What `R` holds after the `n`-th return to the reset state. -/
opaque Config.freeR : Nat → Point

end Sys2Proof
end

