-- ==== Sys2Proof/Syntax.lean ====
section
/-! DEFINITION. Commands as byte strings (spec/30_encoding.md rules R80, R82) and the thirteen commands as an
abstract syntax, one constructor per row of spec/opcode_table.json (R90). -/

namespace Sys2Proof

/-- A command on the port: byte 0 is the opcode, the rest is the payload (R82). A command of length zero cannot be
sent (R96), and none can be written in this type (log 9). -/
structure Command where
  op : Byte
  payload : List Byte
deriving DecidableEq, Repr

/-- The thirteen commands (R90). A scalar operand is the 256-bit payload `s` as sent, canonical or not (R92); a
point operand is the payload's bytes in port order, not yet decoded (R85, R93). -/
inductive Instr where
  /-- 0x00, R220 -/
  | nop
  /-- 0x01, R111 -/
  | lrLoadA (x : Scalar)
  /-- 0x02, R112 -/
  | lrStart
  /-- 0x03, R122 -/
  | lrRdD0
  /-- 0x04, R123 -/
  | lrRdD1
  /-- 0x10, R180 -/
  | neLoadSa (x : Scalar)
  /-- 0x11, R181 -/
  | neLoadSb (x : Scalar)
  /-- 0x12, R182 -/
  | neLoadPa (pt : List Byte)
  /-- 0x13, R183 -/
  | neLoadPc (pt : List Byte)
  /-- 0x14, R184 -/
  | neStart
  /-- 0x15, R199 -/
  | neRdR
  /-- 0x20, R221 -/
  | rdStatus
  /-- 0x3f, R222 -/
  | clear
deriving DecidableEq, Repr

end Sys2Proof
end

