-- ==== Sys2Proof/Decode.lean ====
section
/-! DEFINITION. Byte order (spec/00_scope.md rule R11, spec/20_memory.md rule R63), the command formats and the
opcode map (spec/30_encoding.md rules R82 to R85, R90, R95, R96), the decoder, total on byte strings, and the
encoder. -/

namespace Sys2Proof

/-! ### Little-endian byte strings (R11, R63) -/

/-- `to_le(x, n)`: the `n` low bytes of `x`, byte 0 least significant (R11). -/
def toLe : Nat → Nat → List Byte
  | 0, _ => []
  | n + 1, x => BitVec.ofNat 8 x :: toLe n (x / 256)

/-- `le(buf)`: the integer the bytes spell, byte 0 least significant (R11). -/
def fromLe : List Byte → Nat
  | [] => 0
  | b :: bs => b.toNat + 256 * fromLe bs

/-! ### Opcodes and formats (R82, R90) -/

/-- The three command formats (R82). -/
inductive Format where
  /-- no payload -/
  | n
  /-- scalar payload, 32 bytes -/
  | s
  /-- point payload, `POINT_BYTES` bytes -/
  | p
deriving DecidableEq, Repr

/-- The thirteen opcodes by name (R90). -/
inductive Opcode where
  | nop | lrLoadA | lrStart | lrRdD0 | lrRdD1
  | neLoadSa | neLoadSb | neLoadPa | neLoadPc | neStart | neRdR
  | rdStatus | clear
deriving DecidableEq, Repr

/-- The opcode map, from byte 0 of a command: the whole byte is matched (R91), and every byte outside the map is
reserved (R95). -/
def opcodeOfByte (b : Byte) : Option Opcode :=
  if b = 0x00#8 then some .nop
  else if b = 0x01#8 then some .lrLoadA
  else if b = 0x02#8 then some .lrStart
  else if b = 0x03#8 then some .lrRdD0
  else if b = 0x04#8 then some .lrRdD1
  else if b = 0x10#8 then some .neLoadSa
  else if b = 0x11#8 then some .neLoadSb
  else if b = 0x12#8 then some .neLoadPa
  else if b = 0x13#8 then some .neLoadPc
  else if b = 0x14#8 then some .neStart
  else if b = 0x15#8 then some .neRdR
  else if b = 0x20#8 then some .rdStatus
  else if b = 0x3f#8 then some .clear
  else none

/-- The opcode map, the other way (R90, column `op`). -/
def opcodeByte : Opcode → Byte
  | .nop => 0x00#8
  | .lrLoadA => 0x01#8
  | .lrStart => 0x02#8
  | .lrRdD0 => 0x03#8
  | .lrRdD1 => 0x04#8
  | .neLoadSa => 0x10#8
  | .neLoadSb => 0x11#8
  | .neLoadPa => 0x12#8
  | .neLoadPc => 0x13#8
  | .neStart => 0x14#8
  | .neRdR => 0x15#8
  | .rdStatus => 0x20#8
  | .clear => 0x3f#8

/-- The format of each opcode (R90, column `format`). -/
def opcodeFormat : Opcode → Format
  | .lrLoadA => .s
  | .neLoadSa => .s
  | .neLoadSb => .s
  | .neLoadPa => .p
  | .neLoadPc => .p
  | .nop => .n
  | .lrStart => .n
  | .lrRdD0 => .n
  | .lrRdD1 => .n
  | .neStart => .n
  | .neRdR => .n
  | .rdStatus => .n
  | .clear => .n

/-- Payload length in bytes of a format: the total length of R82 less the opcode byte. -/
def payloadLength : Format → Nat
  | .n => 0
  | .s => Config.scalarBytes
  | .p => Config.pointBytes

/-! ### The decoder (R82 to R85, R92, R95, R96) -/

/-- Why a byte string is no command. Both of the last two are the illegal commands of R95 and R96. -/
inductive DecodeError where
  /-- no byte at all: such a command cannot be sent (R96) -/
  | empty
  /-- byte 0 is none of the thirteen opcodes (R95) -/
  | reservedOpcode (op : Byte)
  /-- the payload has not the length the opcode's format requires (R96) -/
  | wrongLength (op : Byte) (payloadBytes : Nat)
deriving DecidableEq, Repr

/-- The 256-bit scalar operand of a format-S payload: `le(cmd[1..33])` (R84, R92). -/
def scalarOfPayload (payload : List Byte) : Scalar := BitVec.ofNat 256 (fromLe payload)

/-- The command an opcode and a payload of its format's length stand for (R90, R92, R93). -/
def buildInstr : Opcode → List Byte → Instr
  | .nop, _ => .nop
  | .lrLoadA, payload => .lrLoadA (scalarOfPayload payload)
  | .lrStart, _ => .lrStart
  | .lrRdD0, _ => .lrRdD0
  | .lrRdD1, _ => .lrRdD1
  | .neLoadSa, payload => .neLoadSa (scalarOfPayload payload)
  | .neLoadSb, payload => .neLoadSb (scalarOfPayload payload)
  | .neLoadPa, payload => .neLoadPa payload
  | .neLoadPc, payload => .neLoadPc payload
  | .neStart, _ => .neStart
  | .neRdR, _ => .neRdR
  | .rdStatus, _ => .rdStatus
  | .clear, _ => .clear

/-- The decoder: opcode first, then length (R233, R234 item 2). -/
def decode : List Byte → Except DecodeError Instr
  | [] => .error .empty
  | op :: payload =>
    match opcodeOfByte op with
    | none => .error (.reservedOpcode op)
    | some o =>
      if payload.length = payloadLength (opcodeFormat o) then .ok (buildInstr o payload)
      else .error (.wrongLength op payload.length)

/-! ### The encoder (R83 to R85, R90) -/

/-- The opcode of an instruction. -/
def instrOpcode : Instr → Opcode
  | .nop => .nop
  | .lrLoadA _ => .lrLoadA
  | .lrStart => .lrStart
  | .lrRdD0 => .lrRdD0
  | .lrRdD1 => .lrRdD1
  | .neLoadSa _ => .neLoadSa
  | .neLoadSb _ => .neLoadSb
  | .neLoadPa _ => .neLoadPa
  | .neLoadPc _ => .neLoadPc
  | .neStart => .neStart
  | .neRdR => .neRdR
  | .rdStatus => .rdStatus
  | .clear => .clear

/-- The payload of an instruction: payload byte `j` of format S carries scalar bits `8j − 1 : 8j − 8` (R84); a
format-P payload is the point's bytes (R85). -/
def instrPayload : Instr → List Byte
  | .lrLoadA x => toLe Config.scalarBytes x.toNat
  | .neLoadSa x => toLe Config.scalarBytes x.toNat
  | .neLoadSb x => toLe Config.scalarBytes x.toNat
  | .neLoadPa pt => pt
  | .neLoadPc pt => pt
  | .nop => []
  | .lrStart => []
  | .lrRdD0 => []
  | .lrRdD1 => []
  | .neStart => []
  | .neRdR => []
  | .rdStatus => []
  | .clear => []

/-- The command's byte string (R82). -/
def encode (i : Instr) : List Byte := opcodeByte (instrOpcode i) :: instrPayload i

/-! ### Commands and table words -/

/-- All bytes of a command, opcode first (R82). -/
def commandBytes (c : Command) : List Byte := c.op :: c.payload

/-- The command that an instruction is sent as. -/
def commandOf (i : Instr) : Command := ⟨opcodeByte (instrOpcode i), instrPayload i⟩

/-- A payload brought to `n` bytes: zero bytes after its end, nothing beyond `n`. -/
def padPayload (n : Nat) (payload : List Byte) : List Byte := (payload ++ List.replicate n 0#8).take n

/-- The command word of R83 to R85, `nbits` bits in whole bytes, laid out as a command: bits 7:0 are the opcode,
which alone fixes how many bytes follow (R97); the bits the word does not give are zero; a reserved opcode keeps
the bytes it was given. -/
def commandOfWord (nbits w : Nat) : Command :=
  match toLe (nbits / 8) w with
  | [] => ⟨0x00#8, []⟩
  | op :: payload =>
    match opcodeOfByte op with
    | some o => ⟨op, padPayload (payloadLength (opcodeFormat o)) payload⟩
    | none => ⟨op, payload⟩

/-- The instruction the decoder reads from a command word numbered as spec/opcode_table.json numbers it. -/
def decodeTableWord (nbits w : Nat) : Option Instr :=
  (decode (commandBytes (commandOfWord nbits w))).toOption

end Sys2Proof
end

