-- ==== Sys2Proof/Machine/State.lean ====
section
/-! DEFINITION. The state of the block (spec/10_state.md), the command port and the host's side of it
(spec/30_encoding.md rules R80, R81), the reasons a step could stop, and the state after reset (rules R50, R260). -/

namespace Sys2Proof.Machine

/-- The model's own stops. There are NONE: every fault of the spec (R231) is an architectural event that the block
records and answers, a next state (R236), and every command is answered after finitely many steps (R276). -/
inductive Fault where
deriving DecidableEq, Repr

/-- Reasons to give an instruction no meaning. -/
inductive Refusal where
  /-- Raised by an arm of `exec` whose instruction has no meaning yet. No arm raises it: all thirteen commands are
  modelled. Safe: nothing can be proved about what such an instruction does. -/
  | notModelled (mnemonic : String)
deriving DecidableEq, Repr

/-- The six fault causes (R231). Each is recorded in the state and answered on the port, never a stop of the model. -/
inductive Cause where
  /-- `F_ILLEGAL_CMD`: reserved opcode or wrong length; raised by the dispatch of a command (R233) -/
  | illegalCmd
  /-- `F_NONCANONICAL`: a scalar payload at or above ELL; raised by LR_LOAD_A, NE_LOAD_SA, NE_LOAD_SB -/
  | noncanonical
  /-- `F_POINT_INVALID`: `pt_decode` refuses the payload; raised by NE_LOAD_PA, NE_LOAD_PC -/
  | pointInvalid
  /-- `F_OPERAND_MISSING`: an operand's valid flag is 0; raised by LR_START, NE_START -/
  | operandMissing
  /-- `F_RESULT_INVALID`: the result's valid flag is 0; raised by LR_RD_D0, LR_RD_D1, NE_RD_R -/
  | resultInvalid
  /-- `F_INVARIANT`: one of the three defensive checks of `to_si`, `sc_to_bytes`, `naf`; raised by LR_START,
  NE_START; unreachable (R201) -/
  | invariant
deriving DecidableEq, Repr

/-- The command port between two steps (R80, R81): at most one command is outstanding. -/
inductive Port where
  /-- no command in progress, no response pending (R50) -/
  | idle
  /-- a command has been accepted and not yet performed -/
  | running (c : Command)
  /-- the command is performed; its response is offered to the host -/
  | responding (r : List Byte)
deriving DecidableEq, Repr

/-- The input signals of R81 as one step samples them. -/
structure Pins where
  /-- `rst`, active high -/
  rst : Bool
  /-- `cmd_valid` with `cmd_bytes` and `cmd_len`: the command the host offers, if it offers one -/
  cmd : Option Command
  /-- `rsp_ready`: the host takes a response that is offered -/
  rspReady : Bool
deriving DecidableEq, Repr

/-- Everything the spec gives the block between two steps: the eight data registers (R20), the fields of STATUS
(R30, R31), the command port (R50, R80), and two fields of the MODEL's own. What exists only during one command
(R33, R34, R36, R40 to R45) is local to the meanings that make it (R46, log 8). -/
structure State where
  /-- `A`: the reducer's operand (R21) -/
  a : Scalar
  /-- `D0`: result `d0` (R22) -/
  d0 : SignedInt
  /-- `D1`: result `d1` (R22) -/
  d1 : SignedInt
  /-- `SA`: evaluator scalar `a` (R23) -/
  sa : Scalar
  /-- `SB`: evaluator scalar `b` (R23) -/
  sb : Scalar
  /-- `PTA`: evaluator point `A` (R24) -/
  pta : Point
  /-- `PTC`: evaluator point `C` (R24) -/
  ptc : Point
  /-- `R`: evaluator result (R25) -/
  r : Point
  /-- `STATUS.A_V`, bit 0 -/
  aV : Bool
  /-- `STATUS.D_V`, bit 1 -/
  dV : Bool
  /-- `STATUS.SA_V`, bit 2 -/
  saV : Bool
  /-- `STATUS.SB_V`, bit 3 -/
  sbV : Bool
  /-- `STATUS.PTA_V`, bit 4 -/
  ptaV : Bool
  /-- `STATUS.PTC_V`, bit 5 -/
  ptcV : Bool
  /-- `STATUS.R_V`, bit 6 -/
  rV : Bool
  /-- `STATUS.FAULT`, bit 7 -/
  fault : Bool
  /-- `STATUS.CAUSE`, bits 11:8 -/
  cause : BitVec 4
  /-- the command port (R50, R80) -/
  port : Port
  /-- MODEL's own (log 7): what the input pins will carry at the coming steps, next step first -/
  inputs : List Pins
  /-- MODEL's own (log 5): how many times the block has returned to its reset state; it numbers the free values
  of the unspecified registers -/
  clears : Nat
deriving DecidableEq, Repr

/-- The block right after reset (R50, R260): flags and cause zero, the port idle, the data registers unspecified
(free values, log 4), and a host that has not yet done anything. -/
def State.reset : State where
  a := Config.freeA 0
  d0 := Config.freeD0 0
  d1 := Config.freeD1 0
  sa := Config.freeSA 0
  sb := Config.freeSB 0
  pta := Config.freePTA 0
  ptc := Config.freePTC 0
  r := Config.freeR 0
  aV := false
  dV := false
  saV := false
  sbV := false
  ptaV := false
  ptcV := false
  rV := false
  fault := false
  cause := 0#4
  port := .idle
  inputs := []
  clears := 0

/-- What a step answers. -/
abbrev Outcome := Host.Outcome State Fault Refusal

end Sys2Proof.Machine
end

