-- ==== Sys2Proof/Machine/Flags.lean ====
section
/-! DEFINITION. The flags and the STATUS register as one word (spec/10_state.md rules R30, R31), the cause codes
(spec/60_exceptions.md rule R231), and the tests the commands make on flags. -/

namespace Sys2Proof.Machine

/-- The code of a cause, the value of `STATUS.CAUSE` (R231). -/
def causeCode : Cause → BitVec 4
  | .illegalCmd => 0x1#4
  | .noncanonical => 0x2#4
  | .pointInvalid => 0x3#4
  | .operandMissing => 0x4#4
  | .resultInvalid => 0x5#4
  | .invariant => 0x6#4

/-- A cause code as a response code `rc`: the same number (R86, R87). -/
def responseCode (cause : BitVec 4) : Byte := cause.setWidth 8

/-- `STATUS` as a 32-bit word: bits 31:12 zero, CAUSE 11:8, FAULT 7, R_V 6, PTC_V 5, PTA_V 4, SB_V 3, SA_V 2, D_V 1,
A_V 0 (R31). -/
def statusWord (s : State) : BitVec 32 :=
  0#20 ++ s.cause ++ BitVec.ofBool s.fault ++ BitVec.ofBool s.rV ++ BitVec.ofBool s.ptcV
    ++ BitVec.ofBool s.ptaV ++ BitVec.ofBool s.sbV ++ BitVec.ofBool s.saV ++ BitVec.ofBool s.dV
    ++ BitVec.ofBool s.aV

/-- `assert cond else Fault(cause)` (R16). -/
def assertElse (cond : Bool) (cause : Cause) : Except Cause Unit :=
  if cond then .ok () else .error cause

/-- The operand test of LR_START: `A_V = 1` (R112). -/
def reducerOperandValid (s : State) : Bool := s.aV

/-- The operand test of NE_START: all four operand flags, tested together (R184, R234 item 3). -/
def evaluatorOperandsValid (s : State) : Bool := s.saV && s.sbV && s.ptaV && s.ptcV

end Sys2Proof.Machine
end

