-- ==== Sys2Proof/Machine/Operands.lean ====
section
/-! DEFINITION. Operand forms: the scalar and point operands of a load (spec/30_encoding.md rules R92, R93), the
SignedInteger register and its port image (spec/10_state.md rule R22, spec/30_encoding.md rule R88), the integer
it is made from (spec/40_lattice_reducer.md rule R120), and the STATUS response (R89). -/

namespace Sys2Proof.Machine

/-- The scalar operand with its check `s < ELL`; it is not reduced (R92). -/
def scalarOperand (x : Scalar) : Except Cause Scalar :=
  if x.toNat < Config.ell then .ok x else .error .noncanonical

/-- The point operand: what `pt_decode` makes of the payload, or `F_POINT_INVALID` (R93). -/
def pointOperand (pt : List Byte) : Except Cause Point :=
  match Config.ptDecode pt with
  | some p => .ok p
  | none => .error .pointInvalid

/-- The 130-bit register image: `neg` at bit 129, `mag` in bits 128:0 (R22). -/
def signedImage (d : SignedInt) : BitVec 130 := BitVec.ofBool d.neg ++ d.mag

/-- `val(D) = (−1)^neg · mag` (R22). -/
def signedVal (d : SignedInt) : Int := if d.neg then -(d.mag.toNat : Int) else (d.mag.toNat : Int)

/-- The 17 response bytes of a SignedInteger: `to_le(zext_136(D), 17)` (R88). -/
def signedBytes (d : SignedInt) : List Byte := toLe 17 ((signedImage d).setWidth 136).toNat

/-- `to_si(x)`: sign and magnitude of an integer, `F_INVARIANT` when the magnitude does not fit (R120). -/
def toSi (x : Int) : Except Cause SignedInt :=
  if x.natAbs < 2 ^ Config.magBits then .ok ⟨decide (x < 0), BitVec.ofNat 129 x.natAbs⟩
  else .error .invariant

/-- The 4 response bytes of RD_STATUS: `to_le(STATUS, 4)` (R89, R221). -/
def statusBytes (s : State) : List Byte := toLe 4 (statusWord s).toNat

end Sys2Proof.Machine
end

