-- ==== Sys2Proof/Machine/Ops.lean ====
section
/-! DEFINITION. The named operations on the state: responding on the port (spec/30_encoding.md rule R86), the register
writes with the flags each one sets and clears (spec/10_state.md rule R30, spec/70_reset_and_hazards.md rule R271),
taking a fault and leaving it (spec/60_exceptions.md rules R233, R236, R238). -/

namespace Sys2Proof.Machine

/-! ### Responses (R86) -/

/-- `rc = 0x00`, success (R87). -/
def okCode : Byte := 0x00#8

/-- `respond(rc, data)`: the response `rc ‖ data` is offered on the port (R17, R86). -/
def respond (rc : Byte) (data : List Byte) (s : State) : State :=
  { s with port := .responding (rc :: data) }

/-! ### Register writes with their flags (R30, R271) -/

/-- Write `A`: `A_V <- 1`, and `D0`, `D1` no longer describe `A`: `D_V <- 0` (R111). -/
def writeA (x : Scalar) (s : State) : State :=
  { s with a := x, aV := true, dV := false }

/-- Write `D0` and `D1`: `D_V <- 1` (R112). -/
def writeD (x y : SignedInt) (s : State) : State :=
  { s with d0 := x, d1 := y, dV := true }

/-- Write `SA`: `SA_V <- 1`, `R_V <- 0` (R180). -/
def writeSA (x : Scalar) (s : State) : State :=
  { s with sa := x, saV := true, rV := false }

/-- Write `SB`: `SB_V <- 1`, `R_V <- 0` (R181). -/
def writeSB (x : Scalar) (s : State) : State :=
  { s with sb := x, sbV := true, rV := false }

/-- Write `PTA`: `PTA_V <- 1`, `R_V <- 0` (R182). -/
def writePTA (p : Point) (s : State) : State :=
  { s with pta := p, ptaV := true, rV := false }

/-- Write `PTC`: `PTC_V <- 1`, `R_V <- 0` (R183). -/
def writePTC (p : Point) (s : State) : State :=
  { s with ptc := p, ptcV := true, rV := false }

/-- Write `R`: `R_V <- 1` (R184). -/
def writeR (p : Point) (s : State) : State :=
  { s with r := p, rV := true }

/-! ### Fault entry and exit (R236, R238) -/

/-- `raise Fault(c)` in a command performed with `FAULT = 0`: FAULT and CAUSE are set, the response carries the
cause, and nothing else changes (R236). -/
def raiseFault (c : Cause) (s : State) : State :=
  respond (responseCode (causeCode c)) [] { s with fault := true, cause := causeCode c }

/-- The answer of a command that is not performed because `FAULT = 1` already: the recorded cause, no other change
(R233, R237). -/
def refuseFaulted (s : State) : State :=
  respond (responseCode s.cause) [] s

/-- Return to the reset state, the only exit from the faulted state (R222, R238, R260, R261): every valid flag, FAULT
and CAUSE zero; the data registers unspecified from here on (R50), which is a new set of free values (log 5). DESIGN
CHOICE (log 5): this holds in the reset state too, where R222 says that CLEAR "changes nothing"; the model reads that of
what the spec gives a value there (flags, FAULT, CAUSE), not of the unspecified contents. -/
def returnToReset (s : State) : State :=
  { s with
    a := Config.freeA (s.clears + 1)
    d0 := Config.freeD0 (s.clears + 1)
    d1 := Config.freeD1 (s.clears + 1)
    sa := Config.freeSA (s.clears + 1)
    sb := Config.freeSB (s.clears + 1)
    pta := Config.freePTA (s.clears + 1)
    ptc := Config.freePTC (s.clears + 1)
    r := Config.freeR (s.clears + 1)
    aV := false
    dV := false
    saV := false
    sbV := false
    ptaV := false
    ptcV := false
    rV := false
    fault := false
    cause := 0#4
    clears := s.clears + 1 }

/-- The `rst` input asserted: the reset state, a command in progress abandoned and a pending response dropped
(R260). -/
def resetBlock (s : State) : State :=
  { returnToReset s with port := .idle }

/-! ### Performing a command (R233) -/

/-- An ordinary command behind `common_checks()` (R233): while `FAULT = 1` it is answered with the recorded cause;
else its body runs, and either completes with new state and response data or raises a fault from the state before
the command, so that faults are precise (R236). -/
def command (body : State → Except Cause (State × List Byte)) (s : State) : Outcome :=
  .next (if s.fault then refuseFaulted s
    else match body s with
      | .ok (t, data) => respond okCode data t
      | .error c => raiseFault c s)

/-- A command exempt from the `FAULT = 1` branch: RD_STATUS and CLEAR, behind `length_check()` (R233). -/
def systemCommand (body : State → State × List Byte) (s : State) : Outcome :=
  .next (respond okCode (body s).2 (body s).1)

/-- A command that is not well formed: `F_ILLEGAL_CMD`, or the recorded cause while `FAULT = 1` (R95, R96, R233). -/
def illegalCommand (s : State) : Outcome :=
  command (fun _ => .error .illegalCmd) s

end Sys2Proof.Machine
end

