-- ==== Sys2Proof/Machine/Reducer.lean ====
section
/-! DEFINITION. The reducer unit LR (spec/40_lattice_reducer.md): the algorithm `find_short_vector` of rules R113 to
R118 over exact integers, and the meanings of LR_LOAD_A, LR_START, LR_RD_D0, LR_RD_D1. -/

namespace Sys2Proof.Machine

/-! ### The algorithm (R113 to R118) -/

/-- A row of the reducer, a vector of two integers (R40). -/
structure Row where
  x : Int
  y : Int
deriving DecidableEq, Repr

/-- The squared Euclidean norm `N(w)` (R114). -/
def rowNorm (w : Row) : Int := w.x * w.x + w.y * w.y

/-- The inner product `<u, v>` (R114). -/
def rowInner (u v : Row) : Int := u.x * v.x + u.y * v.y

/-- `nearest(p, n) = floor((2p + n) / (2n))` for `n > 0`, ties upward (R118). Division of integers by a positive
integer rounds toward −∞ in Lean, as R126 asks. -/
def nearest (p n : Int) : Int := (2 * p + n) / (2 * n)

/-- The candidate row `r = u − q·v` with `q` the nearest-integer quotient of `<u, v>` and `<v, v>` (R115). -/
def reducedRow (u v : Row) : Row :=
  let q := nearest (rowInner u v) (rowNorm v)
  ⟨u.x - q * v.x, u.y - q * v.y⟩

/-- The loop of R116: exit with `v` when the candidate is not shorter than `v`, else exchange and repeat. The first
argument bounds the passes; `fsv` gives one that is never used up (R119 item 5, log 6). -/
def reduceRows : Nat → Row → Row → Row
  | 0, _, v => v
  | fuel + 1, u, v =>
    let r := reducedRow u v
    if rowNorm v ≤ rowNorm r then v else reduceRows fuel v r

/-- More passes than the loop can make from `(ELL, 0)`, `(a, 1)`: `N(v)` starts at `a² + 1` and falls by at least
one in every pass but the last (R119 item 5). -/
def reduceFuel (a : Nat) : Nat := a * a + 2

/-- `fsv(a)`: the loop from the basis `(ELL, 0)`, `(a, 1)`; the result is the shorter row `(d0, d1)` (R113, R117). -/
def fsv (a : Nat) : Row := reduceRows (reduceFuel a) ⟨Config.ell, 0⟩ ⟨a, 1⟩

/-- `find_short_vector` as the START commands use it: both components through `to_si` (R112, R184). -/
def decompose (a : Nat) : Except Cause (SignedInt × SignedInt) :=
  match toSi (fsv a).x, toSi (fsv a).y with
  | .ok d0, .ok d1 => .ok (d0, d1)
  | .error c, _ => .error c
  | .ok _, .error c => .error c

/-! ### LR_LOAD_A (R111) -/

/-- `assert s < ELL; A <- s; A_V <- 1; D_V <- 0`. -/
def lrLoadABody (x : Scalar) (s : State) : Except Cause (State × List Byte) :=
  match scalarOperand x with
  | .ok v => .ok (writeA v s, [])
  | .error c => .error c

/-- LR_LOAD_A (R111). -/
def execLrLoadA (x : Scalar) (s : State) : Outcome := command (lrLoadABody x) s

/-! ### LR_START (R112) -/

/-- `assert A_V = 1; (d0, d1) <- fsv(A); D0 <- to_si(d0); D1 <- to_si(d1); D_V <- 1`. -/
def lrStartBody (s : State) : Except Cause (State × List Byte) :=
  match assertElse (reducerOperandValid s) .operandMissing with
  | .error c => .error c
  | .ok _ =>
    match decompose s.a.toNat with
    | .ok (x, y) => .ok (writeD x y s, [])
    | .error c => .error c

/-- LR_START (R112). -/
def execLrStart (s : State) : Outcome := command lrStartBody s

/-! ### LR_RD_D0, LR_RD_D1 (R122, R123) -/

/-- `assert D_V = 1; respond(0x00, to_le(zext_136(D0), 17))`. -/
def lrRdD0Body (s : State) : Except Cause (State × List Byte) :=
  match assertElse s.dV .resultInvalid with
  | .ok _ => .ok (s, signedBytes s.d0)
  | .error c => .error c

/-- LR_RD_D0 (R122). -/
def execLrRdD0 (s : State) : Outcome := command lrRdD0Body s

/-- `assert D_V = 1; respond(0x00, to_le(zext_136(D1), 17))`. -/
def lrRdD1Body (s : State) : Except Cause (State × List Byte) :=
  match assertElse s.dV .resultInvalid with
  | .ok _ => .ok (s, signedBytes s.d1)
  | .error c => .error c

/-- LR_RD_D1 (R123). -/
def execLrRdD1 (s : State) : Outcome := command lrRdD1Body s

end Sys2Proof.Machine
end

