-- ==== Sys2Proof/Machine/ScalarRing.lean ====
section
/-! DEFINITION. The scalar-ring operations and the signed-digit expansion that NE_START calls
(spec/41_scalar_ring_naf.md): functions on integers, none of them a command. -/

namespace Sys2Proof.Machine

/-! ### Ring operations (R140 to R145) -/

/-- `sc_mul(x, y) = (x · y) mod ELL`, the product formed in full (R141). -/
def scMul (x y : Nat) : Nat := x * y % Config.ell

/-- `sc_neg(x) = (ELL − x) mod ELL` for a scalar `x` (R142). -/
def scNeg (x : Nat) : Nat := (Config.ell - x) % Config.ell

/-- `sc_to_bytes(x)`: 32 little-endian bytes, `F_INVARIANT` when `x` is not canonical (R143). -/
def scToBytes (x : Nat) : Except Cause (List Byte) :=
  if x < Config.ell then .ok (toLe 32 x) else .error .invariant

/-- `sc_set_bits(buf) = le(buf) mod ELL` (R144). -/
def scSetBits (buf : List Byte) : Nat := fromLe buf % Config.ell

/-- `si_to_scalar(D) = D.mag mod ELL`; the sign is not part of the scalar (R145). -/
def siToScalar (d : SignedInt) : Nat := d.mag.toNat % Config.ell

/-! ### The signed-digit expansion (R147, R148) -/

/-- The digit `naf` takes at one position from the value `k` left there: 0 when `k` is even, else `k mod 2^w` brought
into `−(2^(w−1)−1) .. 2^(w−1)−1` (R148). -/
def nafDigit (w : Nat) (k : Int) : Int :=
  if k % 2 = 1 then
    let t := k % 2 ^ w
    if (2 : Int) ^ (w - 1) ≤ t then t - 2 ^ w else t
  else 0

/-- The digits at the positions still to come, of which the first argument counts how many are left below 256; a
nonzero rest at position 256 is the `assert j <= 255` of R148. -/
def nafDigits (w : Nat) : Nat → Int → Except Cause (List Int)
  | 0, k => if 0 < k then .error .invariant else .ok []
  | left + 1, k =>
    let d := nafDigit w k
    match nafDigits w left ((k - d) / 2) with
    | .ok ds => .ok (d :: ds)
    | .error c => .error c

/-- `naf(k, w)`: the 256 signed digits of `k`, position 0 first (R148). -/
def naf (k w : Nat) : Except Cause (List Int) := nafDigits w Config.nafLen k

/-- `N[j]` of a digit array (R14). Positions `0..255` exist; no rule reads another (log 10). -/
def digitAt (n : List Int) (j : Nat) : Int := n.getD j 0

end Sys2Proof.Machine
end

