-- ==== Sys2Proof/Machine/Tables.lean ====
section
/-! DEFINITION. The lookup tables over the group parameter (spec/42_group_and_tables.md, spec/20_memory.md rule R70),
for any group operations; the machine uses them with `Config.group`. -/

namespace Sys2Proof.Machine

/-- `T[n+1−k .. ]`: `n` entries from `P` on, each the last one plus `P2` (the loop of R164). -/
def buildFrom {α : Type} (G : GroupOps α) (P2 : α) : Nat → α → List α
  | 0, _ => []
  | n + 1, P => P :: buildFrom G P2 n (G.gadd P P2)

/-- `build(P)`: the eight odd multiples `P, 3P, …, 15P`, by one doubling and seven additions (R163, R164). The list's
element `k − 1` is `T[k]`. -/
def buildTable {α : Type} (G : GroupOps α) (P : α) : List α :=
  buildFrom G (G.gdouble P) Config.tblVar P

/-- `B128 = [2^128]B` (R13, R171). -/
def base128 {α : Type} (G : GroupOps α) : α := G.smul (2 ^ 128) G.base

/-- The static table of a base point: `T[k] = [2k − 1]P` for `k = 1..64`, a constant (R35, R168, R170). -/
def staticTable {α : Type} (G : GroupOps α) (P : α) : List α :=
  (List.range Config.tblFix).map fun (k : Nat) => G.smul (2 * (k : Int) + 1) P

/-- `TB` (R168). -/
def tableB {α : Type} (G : GroupOps α) : List α := staticTable G G.base

/-- `TB128` (R168). -/
def tableB128 {α : Type} (G : GroupOps α) : List α := staticTable G (base128 G)

/-- The table index of a digit `d > 0`, counted from zero: `k − 1 = |d| >> 1` with `k = (d + 1) / 2` (R70). -/
def tableIndex (d : Int) : Nat := d.toNat / 2

/-- `lookup(T, d) = T[(d + 1) / 2]` for an odd digit `d > 0` (R166, R169). The index is always in range (R149 item 5);
a table has no other entries (log 10). -/
def lookup {α : Type} (G : GroupOps α) (T : List α) (d : Int) : α := T.getD (tableIndex d) G.ident

end Sys2Proof.Machine
end

