-- ==== Sys2Proof/Machine/Evaluator.lean ====
section
/-! DEFINITION. The evaluator unit NE (spec/43_naf_evaluator.md): steps 1 to 5 of the evaluation over any group
operations (R186 to R195), and the meanings of NE_LOAD_SA, NE_LOAD_SB, NE_LOAD_PA, NE_LOAD_PC, NE_START, NE_RD_R. -/

namespace Sys2Proof.Machine

/-! ### Step 1: sign absorption (R186) -/

/-- The sign-absorbed operands `A′`, `sb`, `C′` (R42). -/
structure Absorbed (α : Type) where
  pointA : α
  scalarB : Nat
  pointC : α

/-- `absorb`: `d0 < 0` negates `A`; `d1 < 0` negates `b` and leaves `C`, else `C` is negated (R186). -/
def absorb {α : Type} (G : GroupOps α) (neg0 neg1 : Bool) (A : α) (b : Nat) (C : α) : Absorbed α where
  pointA := if neg0 then G.gneg A else A
  scalarB := if neg1 then scNeg b else b
  pointC := if neg1 then C else G.gneg C

/-! ### Step 2: the split of `db` (R188) -/

/-- `split(db)`: `e0` from bytes 0..15 and `e1` from bytes 16..31 of the serialised `db`, each extended with zero
bytes to a scalar (R94, R188). -/
def splitDb (db : Nat) : Except Cause (Nat × Nat) :=
  match scToBytes db with
  | .ok dbb =>
    .ok (scSetBits (dbb.take 16 ++ List.replicate 16 0#8), scSetBits (dbb.drop 16 ++ List.replicate 16 0#8))
  | .error c => .error c

/-! ### Step 3: the four expansions (R190) -/

/-- The digit arrays `N0 .. N3` (R33). -/
structure Digits where
  n0 : List Int
  n1 : List Int
  n2 : List Int
  n3 : List Int
deriving DecidableEq, Repr

/-- `N0 = naf(|d0|, 5)`, `N1 = naf(e0, 8)`, `N2 = naf(e1, 8)`, `N3 = naf(|d1|, 5)` (R190). -/
def expand (mag0 e0 e1 mag1 : Nat) : Except Cause Digits :=
  match naf mag0 Config.wVar, naf e0 Config.wFix, naf e1 Config.wFix, naf mag1 Config.wVar with
  | .ok n0, .ok n1, .ok n2, .ok n3 => .ok ⟨n0, n1, n2, n3⟩
  | _, _, _, _ => .error .invariant

/-! ### Step 4: the starting index (R192) -/

/-- One of the four arrays has a nonzero digit at `j`. -/
def anyDigit (N : Digits) (j : Nat) : Bool :=
  digitAt N.n0 j != 0 || digitAt N.n1 j != 0 || digitAt N.n2 j != 0 || digitAt N.n3 j != 0

/-- The largest position below `n` with a nonzero digit, if there is one. -/
def startBelow (N : Digits) : Nat → Option Nat
  | 0 => none
  | j + 1 => if anyDigit N j then some j else startBelow N j

/-- `start_index`: positions 255 down to 0 (R192, R193). -/
def startIndex (N : Digits) : Option Nat := startBelow N Config.nafLen

/-! ### Step 5: the scan (R194, R195) -/

/-- The four tables the scan reads (R34, R35). -/
structure Tables (α : Type) where
  ta : List α
  tb : List α
  tb128 : List α
  tc : List α

/-- One (digit array, table) pair at one index: add for a positive digit, subtract for a negative one, nothing for
zero (R167, R194). -/
def addDigit {α : Type} (G : GroupOps α) (T : List α) (d : Int) (acc : α) : α :=
  if 0 < d then G.gadd acc (lookup G T d)
  else if d < 0 then G.gadd acc (G.gneg (lookup G T (-d)))
  else acc

/-- One iteration: double, then the four pairs in the order `A′`, `B`, `B128`, `C′` (R194, R195). -/
def scanStep {α : Type} (G : GroupOps α) (N : Digits) (T : Tables α) (idx : Nat) (acc : α) : α :=
  addDigit G T.tc (digitAt N.n3 idx)
    (addDigit G T.tb128 (digitAt N.n2 idx)
      (addDigit G T.tb (digitAt N.n1 idx)
        (addDigit G T.ta (digitAt N.n0 idx) (G.gdouble acc))))

/-- `for idx = n − 1 downto 0` (R28, R194). -/
def scanDown {α : Type} (G : GroupOps α) (N : Digits) (T : Tables α) : Nat → α → α
  | 0, acc => acc
  | idx + 1, acc => scanDown G N T idx (scanStep G N T idx acc)

/-- `scan`: from the identity, `i` down to 0; the identity when all arrays are zero (R193, R194). -/
def scan {α : Type} (G : GroupOps α) (i : Option Nat) (N : Digits) (T : Tables α) : α :=
  match i with
  | none => G.ident
  | some i => scanDown G N T (i + 1) G.ident

/-! ### The whole evaluation (R184) -/

/-- What NE_START computes: the decomposition and the result. -/
structure Evaluation (α : Type) where
  d0 : SignedInt
  d1 : SignedInt
  r : α

/-- The tables of one evaluation: `TA`, `TC` built from the absorbed points (R189), `TB`, `TB128` constant. -/
def tablesOf {α : Type} (G : GroupOps α) (ab : Absorbed α) : Tables α :=
  ⟨buildTable G ab.pointA, tableB G, tableB128 G, buildTable G ab.pointC⟩

/-- Steps 2 to 5 for a decomposition that is at hand (R187 to R194). -/
def evaluateWith {α : Type} (G : GroupOps α) (d0 d1 : SignedInt) (A : α) (b : Nat) (C : α) :
    Except Cause (Evaluation α) :=
  let ab := absorb G d0.neg d1.neg A b C
  let db := scMul ab.scalarB (siToScalar d1)
  match splitDb db with
  | .error c => .error c
  | .ok (e0, e1) =>
    match expand (siToScalar d0) e0 e1 (siToScalar d1) with
    | .error c => .error c
    | .ok N => .ok ⟨d0, d1, scan G (startIndex N) N (tablesOf G ab)⟩

/-- `mul_abglsv_pornin`: the reducer on `a`, then steps 2 to 5 (R184, R186). -/
def evaluate {α : Type} (G : GroupOps α) (a : Nat) (A : α) (b : Nat) (C : α) : Except Cause (Evaluation α) :=
  match decompose a with
  | .error c => .error c
  | .ok (d0, d1) => evaluateWith G d0 d1 A b C

/-! ### NE_LOAD_SA, NE_LOAD_SB (R180, R181) -/

/-- `assert s < ELL; SA <- s; SA_V <- 1; R_V <- 0`. -/
def neLoadSaBody (x : Scalar) (s : State) : Except Cause (State × List Byte) :=
  match scalarOperand x with
  | .ok v => .ok (writeSA v s, [])
  | .error c => .error c

/-- NE_LOAD_SA (R180). -/
def execNeLoadSa (x : Scalar) (s : State) : Outcome := command (neLoadSaBody x) s

/-- `assert s < ELL; SB <- s; SB_V <- 1; R_V <- 0`. -/
def neLoadSbBody (x : Scalar) (s : State) : Except Cause (State × List Byte) :=
  match scalarOperand x with
  | .ok v => .ok (writeSB v s, [])
  | .error c => .error c

/-- NE_LOAD_SB (R181). -/
def execNeLoadSb (x : Scalar) (s : State) : Outcome := command (neLoadSbBody x) s

/-! ### NE_LOAD_PA, NE_LOAD_PC (R182, R183) -/

/-- `P <- pt_decode(pt); assert P is not refused; PTA <- P; PTA_V <- 1; R_V <- 0`. -/
def neLoadPaBody (pt : List Byte) (s : State) : Except Cause (State × List Byte) :=
  match pointOperand pt with
  | .ok p => .ok (writePTA p s, [])
  | .error c => .error c

/-- NE_LOAD_PA (R182). -/
def execNeLoadPa (pt : List Byte) (s : State) : Outcome := command (neLoadPaBody pt) s

/-- `P <- pt_decode(pt); assert P is not refused; PTC <- P; PTC_V <- 1; R_V <- 0`. -/
def neLoadPcBody (pt : List Byte) (s : State) : Except Cause (State × List Byte) :=
  match pointOperand pt with
  | .ok p => .ok (writePTC p s, [])
  | .error c => .error c

/-- NE_LOAD_PC (R183). -/
def execNeLoadPc (pt : List Byte) (s : State) : Outcome := command (neLoadPcBody pt) s

/-! ### NE_START (R184) -/

/-- Test the four operand flags; then `A <- SA`, `D0`, `D1` and `R` from the evaluation, with their flags; a fault
inside leaves everything as it was (R184, R236). -/
def neStartBody (s : State) : Except Cause (State × List Byte) :=
  match assertElse (evaluatorOperandsValid s) .operandMissing with
  | .error c => .error c
  | .ok _ =>
    match evaluate Config.group s.sa.toNat s.pta s.sb.toNat s.ptc with
    | .error c => .error c
    | .ok ev => .ok (writeR ev.r (writeD ev.d0 ev.d1 (writeA s.sa s)), [])

/-- NE_START (R184). -/
def execNeStart (s : State) : Outcome := command neStartBody s

/-! ### NE_RD_R (R199) -/

/-- `assert R_V = 1; respond(0x00, pt_encode(R))`. -/
def neRdRBody (s : State) : Except Cause (State × List Byte) :=
  match assertElse s.rV .resultInvalid with
  | .ok _ => .ok (s, Config.ptEncode s.r)
  | .error c => .error c

/-- NE_RD_R (R199). -/
def execNeRdR (s : State) : Outcome := command neRdRBody s

end Sys2Proof.Machine
end

