-- ==== Sys2Proof/Machine/System.lean ====
section
/-! DEFINITION. The system commands (spec/44_system_commands.md): NOP, RD_STATUS, CLEAR. -/

namespace Sys2Proof.Machine

/-- `respond(0x00, [])`, no state changes. -/
def nopBody (s : State) : Except Cause (State × List Byte) := .ok (s, [])

/-- NOP (R220): nothing, answers OK; while faulted the recorded cause, like every ordinary command. -/
def execNop (s : State) : Outcome := command nopBody s

/-- RD_STATUS (R221): performed even while `FAULT = 1`; no state changes. -/
def execRdStatus (s : State) : Outcome := systemCommand (fun t => (t, statusBytes t)) s

/-- CLEAR (R222): performed even while `FAULT = 1`; the only command that clears a fault. -/
def execClear (s : State) : Outcome := systemCommand (fun t => (returnToReset t, [])) s

end Sys2Proof.Machine
end

