-- ==== Sys2Proof/Machine/Dispatch.lean ====
section
/-! DEFINITION. One arm per command of spec/opcode_table.json (spec/30_encoding.md rule R90). -/

namespace Sys2Proof.Machine

def exec (i : Instr) (s : State) : Host.Outcome State Fault Refusal :=
  match i with
  | .nop => Sys2Proof.Machine.execNop s
  | .lrLoadA x => Sys2Proof.Machine.execLrLoadA x s
  | .lrStart => Sys2Proof.Machine.execLrStart s
  | .lrRdD0 => Sys2Proof.Machine.execLrRdD0 s
  | .lrRdD1 => Sys2Proof.Machine.execLrRdD1 s
  | .neLoadSa x => Sys2Proof.Machine.execNeLoadSa x s
  | .neLoadSb x => Sys2Proof.Machine.execNeLoadSb x s
  | .neLoadPa pt => Sys2Proof.Machine.execNeLoadPa pt s
  | .neLoadPc pt => Sys2Proof.Machine.execNeLoadPc pt s
  | .neStart => Sys2Proof.Machine.execNeStart s
  | .neRdR => Sys2Proof.Machine.execNeRdR s
  | .rdStatus => Sys2Proof.Machine.execRdStatus s
  | .clear => Sys2Proof.Machine.execClear s

end Sys2Proof.Machine
end

