-- ==== Sys2Proof/Machine/Port.lean ====
section
/-! DEFINITION. The command port (spec/30_encoding.md rules R80, R81): its output signals, how a command is performed
from its bytes (spec/60_exceptions.md rule R233), and what one step of the block does with the input signals it
samples. -/

namespace Sys2Proof.Machine

/-! ### Output signals (R81) -/

/-- `busy`: 1 from the acceptance of a command until its response is taken. -/
def busyPin (s : State) : Bool :=
  match s.port with
  | .idle => false
  | .running _ => true
  | .responding _ => true

/-- `fault`: a copy of `STATUS.FAULT`. -/
def faultPin (s : State) : Bool := s.fault

/-- `cmd_ready`: 0 while `busy` is 1. -/
def cmdReadyPin (s : State) : Bool := !busyPin s

/-- `rsp_valid` with `rsp_bytes`: the response on offer, if there is one. -/
def responsePin (s : State) : Option (List Byte) :=
  match s.port with
  | .idle => none
  | .running _ => none
  | .responding r => some r

/-- `rsp_len`: the length of the response on offer, 0 when there is none. -/
def responseLenPin (s : State) : Nat := ((responsePin s).getD []).length

/-! ### Performing a command (R233) -/

/-- The dispatch of R233: a well-formed command runs its rule, any other is illegal. -/
def perform (c : Command) (s : State) : Outcome :=
  match decode (commandBytes c) with
  | .ok i => exec i s
  | .error _ => illegalCommand s

/-! ### One step -/

/-- Input pins at rest: no reset, no command offered, no response taken. -/
def quietPins : Pins := ⟨false, none, false⟩

/-- The input pins this step samples; a host whose listed inputs are over does nothing (log 7). -/
def sampledPins (s : State) : Pins := s.inputs.headD quietPins

/-- The rest of the host's inputs, left for later steps. -/
def consumeInput (s : State) : State := { s with inputs := s.inputs.tail }

/-- What the block does with the pins it has sampled (R80, R81, R260): reset goes before everything (log 11); a
command offered to an idle port is accepted; an accepted command is performed, in one step; a response on offer is
gone once taken. A command offered while `cmd_ready` is 0 is not accepted (log 12). -/
def stepWith (p : Pins) (s : State) : Outcome :=
  if p.rst then .next (resetBlock s)
  else match s.port with
    | .running c => perform c s
    | .idle =>
      match p.cmd with
      | some c => .next { s with port := .running c }
      | none => .next s
    | .responding _ => .next (if p.rspReady then { s with port := .idle } else s)

/-- The state in which the command `c` has just been accepted, and whose next step samples pins at rest. -/
def acceptCommand (c : Command) (s : State) : State :=
  { s with port := .running c, inputs := quietPins :: s.inputs }

end Sys2Proof.Machine
end

