-- ==== Sys2Proof/Machine/Step.lean ====
section
/-! DEFINITION. One step of the block: it samples the input pins once and acts on them (Machine/Port.lean). -/

namespace Sys2Proof.Machine

/-- One step: sample the next input pins, then act on them. -/
def step (s : State) : Host.Outcome State Fault Refusal :=
  stepWith (sampledPins s) (consumeInput s)

/-- `s` with the command word `w` of `nbits` bits accepted on the port, so that the very next step performs it
(log 7). -/
def State.withFetchWord (s : State) (nbits w : Nat) : State := acceptCommand (commandOfWord nbits w) s

end Sys2Proof.Machine
end

