-- ==== Sys2Proof/Machine/Assembler.lean ====
section
/-! DEFINITION. The text form of a command stream and the pseudo-instructions (spec/30_encoding.md rules R98, R99).
Nothing in the machine reads text: this is how a host's commands and the expected responses are written down. -/

namespace Sys2Proof.Machine

/-- The mnemonic of R90. -/
def mnemonic : Opcode → String
  | .nop => "NOP"
  | .lrLoadA => "LR_LOAD_A"
  | .lrStart => "LR_START"
  | .lrRdD0 => "LR_RD_D0"
  | .lrRdD1 => "LR_RD_D1"
  | .neLoadSa => "NE_LOAD_SA"
  | .neLoadSb => "NE_LOAD_SB"
  | .neLoadPa => "NE_LOAD_PA"
  | .neLoadPc => "NE_LOAD_PC"
  | .neStart => "NE_START"
  | .neRdR => "NE_RD_R"
  | .rdStatus => "RD_STATUS"
  | .clear => "CLEAR"

/-- The name of a cause (R231). -/
def causeName : Cause → String
  | .illegalCmd => "F_ILLEGAL_CMD"
  | .noncanonical => "F_NONCANONICAL"
  | .pointInvalid => "F_POINT_INVALID"
  | .operandMissing => "F_OPERAND_MISSING"
  | .resultInvalid => "F_RESULT_INVALID"
  | .invariant => "F_INVARIANT"

/-- The cause whose response code this is (R87); the codes 0x07 to 0xff are never sent. -/
def causeOfCode (rc : Byte) : Option Cause :=
  [Cause.illegalCmd, .noncanonical, .pointInvalid, .operandMissing, .resultInvalid, .invariant].find?
    fun c => responseCode (causeCode c) == rc

/-- One hexadecimal digit. -/
def hexDigit (n : Nat) : Char := ['0', '1', '2', '3', '4', '5', '6', '7', '8', '9', 'a', 'b', 'c', 'd', 'e', 'f'].getD n '0'

/-- Bytes in port order, two hexadecimal digits each. -/
def hexChars (bs : List Byte) : List Char :=
  bs.flatMap fun b => [hexDigit (b.toNat / 16), hexDigit (b.toNat % 16)]

/-- A command's line: the mnemonic, then the payload bytes in port order (R98). -/
def assemblyLine (i : Instr) : List Char :=
  (mnemonic (instrOpcode i)).toList ++
    (if (instrPayload i).isEmpty then [] else ' ' :: hexChars (instrPayload i))

/-- An expected response as text: `OK`, `OK <hex data>` or `ERR <cause name>` (R98); no text for a byte string that is
no response. -/
def responseText : List Byte → Option (List Char)
  | [] => none
  | rc :: data =>
    if rc = 0x00#8 then
      some ("OK".toList ++ (if data.isEmpty then [] else ' ' :: hexChars data))
    else (causeOfCode rc).map fun c => "ERR ".toList ++ (causeName c).toList

/-- A line of a command stream: the command, and the response it expects, where the line gives one (R98). -/
structure ScriptLine where
  cmd : Instr
  expected : Option (List Byte)
deriving DecidableEq, Repr

/-- A whole line of text. -/
def scriptText (l : ScriptLine) : Option (List Char) :=
  match l.expected with
  | none => some (assemblyLine l.cmd)
  | some r => (responseText r).map fun t => assemblyLine l.cmd ++ "  => ".toList ++ t

/-! ### Reading a line (R98) -/

/-- Text before the comment. -/
def stripComment (cs : List Char) : List Char := cs.takeWhile fun c => c != '#'

/-- The words of a line, in order; the second argument is the word being read, last character first. -/
def wordsFrom : List Char → List Char → List (List Char)
  | [], w => if w.isEmpty then [] else [w.reverse]
  | c :: cs, w =>
    if c = ' ' then (if w.isEmpty then wordsFrom cs [] else w.reverse :: wordsFrom cs [])
    else wordsFrom cs (c :: w)

/-- The value of a hexadecimal digit. -/
def hexValue (c : Char) : Option Nat :=
  ['0', '1', '2', '3', '4', '5', '6', '7', '8', '9', 'a', 'b', 'c', 'd', 'e', 'f'].findIdx? fun d => d == c

/-- Bytes from hexadecimal digits in port order, two a byte. -/
def parseHex : List Char → Option (List Byte)
  | [] => some []
  | [_] => none
  | hi :: lo :: cs =>
    match hexValue hi, hexValue lo, parseHex cs with
    | some h, some l, some bs => some (BitVec.ofNat 8 (16 * h + l) :: bs)
    | _, _, _ => none

/-- The thirteen opcodes. -/
def allOpcodes : List Opcode :=
  [.nop, .lrLoadA, .lrStart, .lrRdD0, .lrRdD1, .neLoadSa, .neLoadSb, .neLoadPa, .neLoadPc, .neStart, .neRdR,
    .rdStatus, .clear]

/-- A command from its mnemonic and its payload's digits; the decoder checks the length. -/
def parseCommand (name digits : List Char) : Option Instr :=
  match allOpcodes.find? (fun o => (mnemonic o).toList == name), parseHex digits with
  | some o, some payload => (decode (opcodeByte o :: payload)).toOption
  | _, _ => none

/-- A response from its words: `OK`, `OK <hex data>`, `ERR <cause name>`. -/
def parseResponse : List (List Char) → Option (List Byte)
  | [k] => if k = "OK".toList then some [0x00#8] else none
  | [k, x] =>
    if k = "OK".toList then (parseHex x).map fun data => 0x00#8 :: data
    else if k = "ERR".toList then
      ([Cause.illegalCmd, .noncanonical, .pointInvalid, .operandMissing, .resultInvalid, .invariant].find?
        fun c => (causeName c).toList == x).map fun c => [responseCode (causeCode c)]
    else none
  | _ => none

/-- The words before `=>` and, when it stands in the line, those after it. -/
def splitArrow : List (List Char) → List (List Char) × Option (List (List Char))
  | [] => ([], none)
  | w :: ws =>
    if w = "=>".toList then ([], some ws)
    else (w :: (splitArrow ws).1, (splitArrow ws).2)

/-- A command line: one or two words of command, then, it may be, an expected response. -/
def parseWords (ws : List (List Char)) : Option ScriptLine :=
  let cmd := match (splitArrow ws).1 with
    | [name] => parseCommand name []
    | [name, digits] => parseCommand name digits
    | _ => none
  match cmd, (splitArrow ws).2 with
  | some i, none => some ⟨i, none⟩
  | some i, some r => (parseResponse r).map fun bs => ⟨i, some bs⟩
  | none, _ => none

/-- One line of a command stream: `none` for text that is no line of R98, `some none` for a line that holds no command
(blank, or a comment). -/
def parseLine (line : List Char) : Option (Option ScriptLine) :=
  match wordsFrom (stripComment line) [] with
  | [] => some none
  | ws => (parseWords ws).map some

/-- Pseudo-instruction `FSV a` (R99). -/
def pseudoFsv (a : Scalar) : List Instr := [.lrLoadA a, .lrStart, .lrRdD0, .lrRdD1]

/-- Pseudo-instruction `MUL a, A, b, C` (R99). -/
def pseudoMul (a : Scalar) (A : List Byte) (b : Scalar) (C : List Byte) : List Instr :=
  [.neLoadSa a, .neLoadPa A, .neLoadSb b, .neLoadPc C, .neStart, .neRdR]

/-- Pseudo-instruction `MULD a, A, b, C`: `MUL`, then the factor δ (R99). -/
def pseudoMuld (a : Scalar) (A : List Byte) (b : Scalar) (C : List Byte) : List Instr :=
  pseudoMul a A b C ++ [.lrRdD1]

end Sys2Proof.Machine
end

