-- ==== Sys2Proof/Safety.lean ====
section
/-! DEFINITION. What counts as a sound state of the block: the facts the spec states about registers whose valid flag
is 1, about CAUSE, and about responses, gathered as one invariant for claims to use. -/

namespace Sys2Proof.Machine

/-- A response byte string as R86 and R87 allow it: a code from 0x00 to 0x06, with data only after 0x00. -/
def responseAllowed : List Byte → Prop
  | [] => False
  | rc :: data => rc.toNat ≤ 6 ∧ (rc ≠ 0x00#8 → data = [])

/-- The invariant of the block. -/
structure BlockInv (s : State) : Prop where
  /-- a valid `A` is canonical (R21) -/
  a_canonical : s.aV = true → s.a.toNat < Config.ell
  /-- a valid `SA` is canonical (R23) -/
  sa_canonical : s.saV = true → s.sa.toNat < Config.ell
  /-- a valid `SB` is canonical (R23) -/
  sb_canonical : s.sbV = true → s.sb.toNat < Config.ell
  /-- valid `D0`, `D1` are the decomposition of the value in `A` (R31 bit 1) -/
  d_decomposes : s.dV = true → s.aV = true ∧ decompose s.a.toNat = .ok (s.d0, s.d1)
  /-- a valid `R` is the evaluation of the operands that are loaded (R30, D19) -/
  r_evaluates : s.rV = true →
    evaluatorOperandsValid s = true ∧
      ∃ ev, evaluate Config.group s.sa.toNat s.pta s.sb.toNat s.ptc = .ok ev ∧ ev.r = s.r
  /-- CAUSE is 0 while FAULT is 0 (R31) -/
  cause_zero : s.fault = false → s.cause = 0#4
  /-- CAUSE names one of the six causes while FAULT is 1 (R231) -/
  cause_named : s.fault = true → 1 ≤ s.cause.toNat ∧ s.cause.toNat ≤ 6
  /-- a response on offer has an allowed form (R86, R87) -/
  response_allowed : ∀ r, s.port = .responding r → responseAllowed r

/-! ### Terms of the reducer's claims (R110, R119) -/

/-- Membership in the lattice `L(a)`: `x ≡ a·y (mod ELL)` (R110, R119 item 1). -/
def InLattice (a : Nat) (w : Row) : Prop := (Config.ell : Int) ∣ w.x - (a : Int) * w.y

/-- The loop invariants of R119, items 1 to 4, for a longer row `u` and a shorter row `v`. -/
structure RowsSound (a : Nat) (u v : Row) : Prop where
  u_inLattice : InLattice a u
  v_inLattice : InLattice a v
  determinant : (u.x * v.y - u.y * v.x).natAbs = Config.ell
  order : rowNorm v ≤ rowNorm u
  bound : rowNorm u ≤ (Config.ell : Int) * Config.ell

/-! ### Terms of the evaluator's claims (R149, R196) -/

/-- The integer `Σ n[j]·2^j` that a digit array stands for (R147). -/
def digitSum (n : List Int) : Int := ∑ j ∈ Finset.range Config.nafLen, digitAt n j * 2 ^ j

/-- A digit a table of `2^(w−2)` odd multiples can serve: zero, or odd with magnitude below `2^(w−1)` (R147). -/
def DigitFits (w : Nat) (d : Int) : Prop := d = 0 ∨ (d % 2 = 1 ∧ d.natAbs < 2 ^ (w - 1))

/-- The four arrays hold digits their tables can serve: width 5 for the variable points, 8 for the fixed bases (R190). -/
def DigitsFit (N : Digits) : Prop :=
  ∀ j, DigitFits Config.wVar (digitAt N.n0 j) ∧ DigitFits Config.wFix (digitAt N.n1 j) ∧
    DigitFits Config.wFix (digitAt N.n2 j) ∧ DigitFits Config.wVar (digitAt N.n3 j)

end Sys2Proof.Machine
end

