-- ==== Sys2Proof/WellFormed.lean ====
section
/-! DEFINITION. Which instructions stand for a command of the right length (spec/30_encoding.md rules R82, R96):
a point operand has exactly `POINT_BYTES` bytes. A scalar operand has its 32 bytes by its type. -/

namespace Sys2Proof

/-- The instruction's command has the length its format requires (R82). -/
def wellFormed : Instr → Bool
  | .nop => true
  | .lrLoadA _ => true
  | .lrStart => true
  | .lrRdD0 => true
  | .lrRdD1 => true
  | .neLoadSa _ => true
  | .neLoadSb _ => true
  | .neLoadPa pt => pt.length == Config.pointBytes
  | .neLoadPc pt => pt.length == Config.pointBytes
  | .neStart => true
  | .neRdR => true
  | .rdStatus => true
  | .clear => true

end Sys2Proof
end

