-- ==== Sys2Proof/Certificates/Slice0/Obligations.lean ====
section
/-! DEFINITION. The statements for the provers, one `def Obligations.<Name> : Prop` each, listed in OBLIGATIONS.json.
The block has no memory and no program counter (spec/20_memory.md R60, spec/10_state.md R27), so no statement has a
memory or pc clause; where a conclusion is an equation `exec i s = .next { s with … }`, it says the result, the
response and the frame (everything not named is unchanged) at once. -/

open Sys2Proof Sys2Proof.Machine

/-! ### Encodings (spec/30_encoding.md) -/

/-- R82 to R85, R90: decoding the encoding of any well-formed instruction gives it back. -/
def Obligations.EncodedInstructionDecodesBack : Prop :=
  ∀ i : Instr, wellFormed i = true → decode (encode i) = .ok i

/-- R82 to R85, R90: every byte string that decodes is the encoding of a well-formed instruction, and of that one. -/
def Obligations.DecodedBytesAreTheirEncoding : Prop :=
  ∀ (bs : List Byte) (i : Instr), decode bs = .ok i → wellFormed i = true ∧ encode i = bs

/-- R82, R97: the opcode byte alone fixes how long a command is. -/
def Obligations.OpcodeFixesTheLength : Prop :=
  ∀ (c d : Command) (i j : Instr), decode (commandBytes c) = .ok i → decode (commandBytes d) = .ok j →
    c.op = d.op → (commandBytes c).length = (commandBytes d).length ∧ instrOpcode i = instrOpcode j

/-- R83 to R85, R90: command words written out from the formats and the opcode map decode to their instructions. -/
def Obligations.OpcodeMapWordsDecode : Prop :=
  decode [0x00#8] = .ok .nop ∧
  decode [0x02#8] = .ok .lrStart ∧
  decode [0x03#8] = .ok .lrRdD0 ∧
  decode [0x04#8] = .ok .lrRdD1 ∧
  decode [0x14#8] = .ok .neStart ∧
  decode [0x15#8] = .ok .neRdR ∧
  decode [0x20#8] = .ok .rdStatus ∧
  decode [0x3f#8] = .ok .clear ∧
  decode (0x01#8 :: 0x05#8 :: List.replicate 31 0x00#8) = .ok (.lrLoadA 5#256) ∧
  decode (0x10#8 :: (List.replicate 31 0x00#8 ++ [0x10#8])) = .ok (.neLoadSa (BitVec.twoPow 256 252)) ∧
  decode (0x11#8 :: 0x00#8 :: 0x01#8 :: List.replicate 30 0x00#8) = .ok (.neLoadSb 256#256) ∧
  ∀ pt : List Byte, pt.length = Config.pointBytes →
    decode (0x12#8 :: pt) = .ok (.neLoadPa pt) ∧ decode (0x13#8 :: pt) = .ok (.neLoadPc pt)

/-- R95: a reserved opcode faults with F_ILLEGAL_CMD and does nothing else. -/
def Obligations.ReservedOpcodesFault : Prop :=
  ∀ (c : Command) (s : State), s.fault = false →
    (0x05 ≤ c.op.toNat ∧ c.op.toNat ≤ 0x0f ∨ 0x16 ≤ c.op.toNat ∧ c.op.toNat ≤ 0x1f ∨
      0x21 ≤ c.op.toNat ∧ c.op.toNat ≤ 0x3e ∨ 0x40 ≤ c.op.toNat) →
    perform c s = .next { s with fault := true, cause := 0x1#4, port := .responding [0x01#8] }

/-- R96 with the lengths of R82: a wrong length faults with F_ILLEGAL_CMD whatever the opcode, and no command has
length zero. -/
def Obligations.WrongLengthsFault : Prop :=
  (∀ (c : Command) (s : State), s.fault = false →
    (c.op ∈ [0x00#8, 0x02#8, 0x03#8, 0x04#8, 0x14#8, 0x15#8, 0x20#8, 0x3f#8] ∧ (commandBytes c).length ≠ 1 ∨
      c.op ∈ [0x01#8, 0x10#8, 0x11#8] ∧ (commandBytes c).length ≠ 33 ∨
      c.op ∈ [0x12#8, 0x13#8] ∧ (commandBytes c).length ≠ 1 + Config.pointBytes) →
    perform c s = .next { s with fault := true, cause := 0x1#4, port := .responding [0x01#8] }) ∧
  ∀ c : Command, (commandBytes c).length ≠ 0

/-- R98: a well-formed instruction's line of text is read back as that instruction. -/
def Obligations.AssemblyLineReadsBack : Prop :=
  ∀ i : Instr, wellFormed i = true → parseLine (assemblyLine i) = some (some ⟨i, none⟩)

/-! ### The port and the step (spec/30_encoding.md R80, R81) -/

/-- R80, R233 (one step performs a whole command, log 1): a step at an accepted command runs the instruction its bytes decode to, after sampling one set of input
pins; bytes that decode to none run the illegal command. -/
def Obligations.StepRunsTheDecodedInstruction : Prop :=
  ∀ (s : State) (c : Command), s.port = .running c → (sampledPins s).rst = false →
    (∀ i, decode (commandBytes c) = .ok i → step s = exec i { s with inputs := s.inputs.tail }) ∧
    (∀ e, decode (commandBytes c) = .error e → step s = illegalCommand { s with inputs := s.inputs.tail })

/-- R80, R81, with the model's conventions of log 7 and log 12: an idle port accepts the command on offer and only then is busy; while a response is on offer no command
is accepted; a response goes when it is taken. Nothing but the port and the host's own inputs changes. -/
def Obligations.PortTakesOneCommandAtATime : Prop :=
  ∀ s : State, (sampledPins s).rst = false →
    (∀ c, s.port = .idle → (sampledPins s).cmd = some c →
      step s = .next { s with port := .running c, inputs := s.inputs.tail }) ∧
    (s.port = .idle → (sampledPins s).cmd = none → step s = .next { s with inputs := s.inputs.tail }) ∧
    (∀ r, s.port = .responding r → (sampledPins s).rspReady = true →
      step s = .next { s with port := .idle, inputs := s.inputs.tail }) ∧
    (∀ r, s.port = .responding r → (sampledPins s).rspReady = false →
      step s = .next { s with inputs := s.inputs.tail }) ∧
    (busyPin s = false ↔ s.port = .idle) ∧
    (cmdReadyPin s = true ↔ busyPin s = false)

/-- R276: every command is answered, whatever its bytes and whatever the state. -/
def Obligations.EveryCommandIsAnswered : Prop :=
  ∀ (c : Command) (s : State), ∃ t r, perform c s = .next t ∧ t.port = .responding r

/-! ### System commands (spec/44_system_commands.md) -/

/-- R220: NOP changes nothing and answers OK; while faulted it answers with the recorded cause. -/
def Obligations.NopDoesNothing : Prop :=
  ∀ s : State, encode .nop = [0x00#8] ∧
    (s.fault = false → exec .nop s = .next { s with port := .responding [0x00#8] }) ∧
    (s.fault = true → exec .nop s = .next { s with port := .responding [s.cause.setWidth 8] })

/-- R221, R89, R31 (the layout): RD_STATUS answers, faulted or not, the four little-endian bytes of STATUS and changes
nothing; on a wrong length it faults (or, faulted already, answers with the recorded cause). -/
def Obligations.RdStatusReturnsTheFlags : Prop :=
  (∀ s : State, encode .rdStatus = [0x20#8] ∧
    ∃ b0 b1 : Byte,
      exec .rdStatus s = .next { s with port := .responding [0x00#8, b0, b1, 0x00#8, 0x00#8] } ∧
      b0.getLsbD 0 = s.aV ∧ b0.getLsbD 1 = s.dV ∧ b0.getLsbD 2 = s.saV ∧ b0.getLsbD 3 = s.sbV ∧
      b0.getLsbD 4 = s.ptaV ∧ b0.getLsbD 5 = s.ptcV ∧ b0.getLsbD 6 = s.rV ∧ b0.getLsbD 7 = s.fault ∧
      b1.toNat = s.cause.toNat) ∧
  ∀ (s : State) (b : Byte) (p : List Byte),
    (s.fault = false → perform ⟨0x20#8, b :: p⟩ s =
      .next { s with fault := true, cause := 0x1#4, port := .responding [0x01#8] }) ∧
    (s.fault = true → perform ⟨0x20#8, b :: p⟩ s = .next { s with port := .responding [s.cause.setWidth 8] })

/-- R222: CLEAR, faulted or not, puts every flag and CAUSE to zero and answers OK; what the data registers hold from
then on is unspecified, and this statement says nothing of it. On a wrong length it faults, or, faulted already,
answers with the recorded cause and clears nothing. -/
def Obligations.ClearZeroesEveryFlag : Prop :=
  (∀ s : State, encode .clear = [0x3f#8] ∧
    ∃ t, exec .clear s = .next t ∧ t.port = .responding [0x00#8] ∧ t.inputs = s.inputs ∧
      t.aV = false ∧ t.dV = false ∧ t.saV = false ∧ t.sbV = false ∧ t.ptaV = false ∧ t.ptcV = false ∧
      t.rV = false ∧ t.fault = false ∧ t.cause = 0x0#4) ∧
  ∀ (s : State) (b : Byte) (p : List Byte),
    (s.fault = false → perform ⟨0x3f#8, b :: p⟩ s =
      .next { s with fault := true, cause := 0x1#4, port := .responding [0x01#8] }) ∧
    (s.fault = true → perform ⟨0x3f#8, b :: p⟩ s = .next { s with port := .responding [s.cause.setWidth 8] })

/-! ### The reducer's commands (spec/40_lattice_reducer.md) -/

/-- R111: LR_LOAD_A loads a canonical scalar, sets A_V, clears D_V; a scalar at or above ELL faults. -/
def Obligations.LrLoadALoadsCanonicalScalars : Prop :=
  ∀ (x : Scalar) (s : State), encode (.lrLoadA x) = 0x01#8 :: toLe 32 x.toNat ∧
    (s.fault = false → x.toNat < Config.ell → exec (.lrLoadA x) s =
      .next { s with a := x, aV := true, dV := false, port := .responding [0x00#8] }) ∧
    (s.fault = false → Config.ell ≤ x.toNat → exec (.lrLoadA x) s =
      .next { s with fault := true, cause := 0x2#4, port := .responding [0x02#8] }) ∧
    (s.fault = true → exec (.lrLoadA x) s = .next { s with port := .responding [s.cause.setWidth 8] })

/-- R112, R120: LR_START puts the short vector of a canonical `A` into D0 and D1 and sets D_V, and changes nothing
else; without a valid `A` it faults. It never faults on a canonical `A`. -/
def Obligations.LrStartStoresTheShortVector : Prop :=
  ∀ s : State, encode .lrStart = [0x02#8] ∧
    (s.fault = false → s.aV = true → s.a.toNat < Config.ell →
      ∃ x y : SignedInt,
        exec .lrStart s = .next { s with d0 := x, d1 := y, dV := true, port := .responding [0x00#8] } ∧
        signedVal x = (fsv s.a.toNat).x ∧ signedVal y = (fsv s.a.toNat).y ∧
        (x.neg = true ↔ (fsv s.a.toNat).x < 0) ∧ (y.neg = true ↔ (fsv s.a.toNat).y < 0)) ∧
    (s.fault = false → s.aV = false → exec .lrStart s =
      .next { s with fault := true, cause := 0x4#4, port := .responding [0x04#8] }) ∧
    (s.fault = true → exec .lrStart s = .next { s with port := .responding [s.cause.setWidth 8] })

/-- R122, R88: LR_RD_D0 returns the 17 little-endian bytes of the 130-bit image of D0 and changes nothing; without
D_V it faults. -/
def Obligations.LrRdD0ReturnsD0 : Prop :=
  ∀ s : State, encode .lrRdD0 = [0x03#8] ∧
    (s.fault = false → s.dV = true →
      ∃ data, exec .lrRdD0 s = .next { s with port := .responding (0x00#8 :: data) } ∧ data.length = 17 ∧
        fromLe data = s.d0.mag.toNat + (if s.d0.neg then 2 ^ 129 else 0)) ∧
    (s.fault = false → s.dV = false → exec .lrRdD0 s =
      .next { s with fault := true, cause := 0x5#4, port := .responding [0x05#8] }) ∧
    (s.fault = true → exec .lrRdD0 s = .next { s with port := .responding [s.cause.setWidth 8] })

/-- R123, R88: LR_RD_D1 returns the 17 little-endian bytes of the 130-bit image of D1 and changes nothing; without
D_V it faults. -/
def Obligations.LrRdD1ReturnsD1 : Prop :=
  ∀ s : State, encode .lrRdD1 = [0x04#8] ∧
    (s.fault = false → s.dV = true →
      ∃ data, exec .lrRdD1 s = .next { s with port := .responding (0x00#8 :: data) } ∧ data.length = 17 ∧
        fromLe data = s.d1.mag.toNat + (if s.d1.neg then 2 ^ 129 else 0)) ∧
    (s.fault = false → s.dV = false → exec .lrRdD1 s =
      .next { s with fault := true, cause := 0x5#4, port := .responding [0x05#8] }) ∧
    (s.fault = true → exec .lrRdD1 s = .next { s with port := .responding [s.cause.setWidth 8] })

/-! ### The evaluator's commands (spec/43_naf_evaluator.md) -/

/-- R180: NE_LOAD_SA loads a canonical scalar, sets SA_V, clears R_V; a scalar at or above ELL faults. -/
def Obligations.NeLoadSaLoadsCanonicalScalars : Prop :=
  ∀ (x : Scalar) (s : State), encode (.neLoadSa x) = 0x10#8 :: toLe 32 x.toNat ∧
    (s.fault = false → x.toNat < Config.ell → exec (.neLoadSa x) s =
      .next { s with sa := x, saV := true, rV := false, port := .responding [0x00#8] }) ∧
    (s.fault = false → Config.ell ≤ x.toNat → exec (.neLoadSa x) s =
      .next { s with fault := true, cause := 0x2#4, port := .responding [0x02#8] }) ∧
    (s.fault = true → exec (.neLoadSa x) s = .next { s with port := .responding [s.cause.setWidth 8] })

/-- R181: NE_LOAD_SB loads a canonical scalar, sets SB_V, clears R_V; a scalar at or above ELL faults. -/
def Obligations.NeLoadSbLoadsCanonicalScalars : Prop :=
  ∀ (x : Scalar) (s : State), encode (.neLoadSb x) = 0x11#8 :: toLe 32 x.toNat ∧
    (s.fault = false → x.toNat < Config.ell → exec (.neLoadSb x) s =
      .next { s with sb := x, sbV := true, rV := false, port := .responding [0x00#8] }) ∧
    (s.fault = false → Config.ell ≤ x.toNat → exec (.neLoadSb x) s =
      .next { s with fault := true, cause := 0x2#4, port := .responding [0x02#8] }) ∧
    (s.fault = true → exec (.neLoadSb x) s = .next { s with port := .responding [s.cause.setWidth 8] })

/-- R182, R93: NE_LOAD_PA loads the point its payload decodes to, sets PTA_V, clears R_V; a payload that `pt_decode`
refuses faults. The refusal is said for every operand of the model's syntax; for one that has not `POINT_BYTES` bytes it
is the model's choice (log 3), and no command reaches `exec` with it: R96 makes it illegal before. -/
def Obligations.NeLoadPaLoadsDecodedPoints : Prop :=
  ∀ (pt : List Byte) (s : State), encode (.neLoadPa pt) = 0x12#8 :: pt ∧
    (∀ P, s.fault = false → Config.ptDecode pt = some P → exec (.neLoadPa pt) s =
      .next { s with pta := P, ptaV := true, rV := false, port := .responding [0x00#8] }) ∧
    (s.fault = false → Config.ptDecode pt = none → exec (.neLoadPa pt) s =
      .next { s with fault := true, cause := 0x3#4, port := .responding [0x03#8] }) ∧
    (s.fault = true → exec (.neLoadPa pt) s = .next { s with port := .responding [s.cause.setWidth 8] })

/-- R183, R93: NE_LOAD_PC loads the point its payload decodes to, sets PTC_V, clears R_V; a payload that `pt_decode`
refuses faults. The refusal is said for every operand of the model's syntax; for one that has not `POINT_BYTES` bytes it
is the model's choice (log 3), and no command reaches `exec` with it: R96 makes it illegal before. -/
def Obligations.NeLoadPcLoadsDecodedPoints : Prop :=
  ∀ (pt : List Byte) (s : State), encode (.neLoadPc pt) = 0x13#8 :: pt ∧
    (∀ P, s.fault = false → Config.ptDecode pt = some P → exec (.neLoadPc pt) s =
      .next { s with ptc := P, ptcV := true, rV := false, port := .responding [0x00#8] }) ∧
    (s.fault = false → Config.ptDecode pt = none → exec (.neLoadPc pt) s =
      .next { s with fault := true, cause := 0x3#4, port := .responding [0x03#8] }) ∧
    (s.fault = true → exec (.neLoadPc pt) s = .next { s with port := .responding [s.cause.setWidth 8] })

/-- R185: loads of different evaluator registers that succeed give the same state in either order, and of two loads of
one register the last is used. -/
def Obligations.LoadsInAnyOrder : Prop :=
  ∀ (i j : Instr) (s t u v w : State),
    instrOpcode i ∈ [Opcode.neLoadSa, .neLoadSb, .neLoadPa, .neLoadPc] →
    instrOpcode j ∈ [Opcode.neLoadSa, .neLoadSb, .neLoadPa, .neLoadPc] →
    exec i s = .next t → t.fault = false → exec j t = .next u → u.fault = false →
    exec j s = .next v → exec i v = .next w →
    (instrOpcode i ≠ instrOpcode j → u = w) ∧ (instrOpcode i = instrOpcode j → u = v)

/-- R184, R197: on loaded canonical operands NE_START never faults; it leaves `A = SA`, the decomposition of `SA` in D0
and D1, and `R = [d0]PTA + [db]B − [d1]PTC` with `db = (SB · d1) mod ELL`, sets A_V, D_V and R_V, and changes
nothing else. -/
def Obligations.NeStartComputesTheResult : Prop :=
  ∀ s : State, s.fault = false → s.saV = true → s.sbV = true → s.ptaV = true → s.ptcV = true →
    s.sa.toNat < Config.ell → s.sb.toNat < Config.ell →
    ∃ (x y : SignedInt) (R : Point),
      exec .neStart s =
        .next { s with a := s.sa, aV := true, d0 := x, d1 := y, dV := true, r := R, rV := true,
                       port := .responding [0x00#8] } ∧
      signedVal x = (fsv s.sa.toNat).x ∧ signedVal y = (fsv s.sa.toNat).y ∧
      R = Config.group.gadd
            (Config.group.gadd (Config.group.smul (signedVal x) s.pta)
              (Config.group.smul (((s.sb.toNat : Int) * signedVal y) % (Config.ell : Int)) Config.group.base))
            (Config.group.gneg (Config.group.smul (signedVal y) s.ptc))

/-- R184: NE_START with any of the four operand flags 0 faults with F_OPERAND_MISSING and writes nothing else; while
faulted it answers with the recorded cause. -/
def Obligations.NeStartNeedsAllFourOperands : Prop :=
  ∀ s : State, encode .neStart = [0x14#8] ∧
    (s.fault = false → (s.saV = false ∨ s.sbV = false ∨ s.ptaV = false ∨ s.ptcV = false) → exec .neStart s =
      .next { s with fault := true, cause := 0x4#4, port := .responding [0x04#8] }) ∧
    (s.fault = true → exec .neStart s = .next { s with port := .responding [s.cause.setWidth 8] })

/-- R186: after NE_START, `A`, `D0`, `D1` and their flags are exactly as after LR_LOAD_A of `SA` and LR_START. -/
def Obligations.NeStartReducesLikeTheReducer : Prop :=
  ∀ s t u v : State, s.fault = false → s.saV = true → s.sbV = true → s.ptaV = true → s.ptcV = true →
    s.sa.toNat < Config.ell → s.sb.toNat < Config.ell →
    exec .neStart s = .next t → exec (.lrLoadA s.sa) s = .next u → exec .lrStart u = .next v →
    t.fault = false ∧ v.fault = false ∧ t.a = v.a ∧ t.d0 = v.d0 ∧ t.d1 = v.d1 ∧ t.aV = v.aV ∧ t.dV = v.dV

/-- R199: NE_RD_R returns the encoding of R and changes nothing; without R_V it faults. -/
def Obligations.NeRdRReturnsTheEncodedResult : Prop :=
  ∀ s : State, encode .neRdR = [0x15#8] ∧
    (s.fault = false → s.rV = true → exec .neRdR s =
      .next { s with port := .responding (0x00#8 :: Config.ptEncode s.r) }) ∧
    (s.fault = false → s.rV = false → exec .neRdR s =
      .next { s with fault := true, cause := 0x5#4, port := .responding [0x05#8] }) ∧
    (s.fault = true → exec .neRdR s = .next { s with port := .responding [s.cause.setWidth 8] })

/-! ### Reads and flags over all commands (spec/20_memory.md R69, spec/10_state.md R30) -/

/-- R69: the four reads change nothing but the port when they succeed, and a repeated read gives the same answer. -/
def Obligations.ReadsHaveNoSideEffects : Prop :=
  ∀ (i : Instr) (s t : State), i ∈ [Instr.lrRdD0, Instr.lrRdD1, Instr.neRdR, Instr.rdStatus] →
    exec i s = .next t → (∃ data, t.port = .responding (0x00#8 :: data)) →
    t = { s with port := t.port } ∧ exec i t = .next t

/-- R30: what a command that succeeds does to each valid flag; a command that faults, or is refused because the block is
faulted, changes none. -/
def Obligations.ValidFlagsFollowTheFlagTable : Prop :=
  ∀ (i : Instr) (s t : State), exec i s = .next t →
    (s.fault = false → t.fault = false →
      t.aV = (match i with | .lrLoadA _ => true | .neStart => true | .clear => false | _ => s.aV) ∧
      t.dV = (match i with
        | .lrStart => true | .neStart => true | .clear => false | .lrLoadA _ => false | _ => s.dV) ∧
      t.saV = (match i with | .neLoadSa _ => true | .clear => false | _ => s.saV) ∧
      t.sbV = (match i with | .neLoadSb _ => true | .clear => false | _ => s.sbV) ∧
      t.ptaV = (match i with | .neLoadPa _ => true | .clear => false | _ => s.ptaV) ∧
      t.ptcV = (match i with | .neLoadPc _ => true | .clear => false | _ => s.ptcV) ∧
      t.rV = (match i with
        | .neStart => true | .clear => false | .neLoadSa _ => false | .neLoadSb _ => false
        | .neLoadPa _ => false | .neLoadPc _ => false | _ => s.rV)) ∧
    (t.fault = true →
      t.aV = s.aV ∧ t.dV = s.dV ∧ t.saV = s.saV ∧ t.sbV = s.sbV ∧ t.ptaV = s.ptaV ∧ t.ptcV = s.ptcV ∧
        t.rV = s.rV)

/-! ### Faults (spec/60_exceptions.md) -/

/-- R236: a command that faults in a block without a fault leaves the state before it, with FAULT and CAUSE set and the
cause answered; nothing else changes, whatever the command. -/
def Obligations.FaultsArePrecise : Prop :=
  ∀ (c : Command) (s t : State), s.fault = false → perform c s = .next t → t.fault = true →
    ∃ k : BitVec 4, 1 ≤ k.toNat ∧ k.toNat ≤ 6 ∧
      t = { s with fault := true, cause := k, port := .responding [k.setWidth 8] }

/-- R237: a faulted block answers every command but the one-byte RD_STATUS and the one-byte CLEAR with the recorded
cause, and changes nothing; its `fault` pin is 1. -/
def Obligations.FaultedBlockRefusesCommands : Prop :=
  ∀ s : State, s.fault = true → faultPin s = true ∧
    ∀ c : Command, c ≠ ⟨0x20#8, []⟩ → c ≠ ⟨0x3f#8, []⟩ →
      perform c s = .next { s with port := .responding [s.cause.setWidth 8] }

/-- R238: in any step, the faulted state is left only by reset or by performing CLEAR, and until then CAUSE does not
change. -/
def Obligations.OnlyClearAndResetEndAFault : Prop :=
  ∀ s t : State, step s = .next t → s.fault = true →
    (t.fault = false → (sampledPins s).rst = true ∨ s.port = .running ⟨0x3f#8, []⟩) ∧
    (t.fault = true → t.cause = s.cause)

/-- R201, R231 (code 6): from a state that meets the invariant no command raises F_INVARIANT. -/
def Obligations.InvariantFaultIsNeverRaised : Prop :=
  ∀ (c : Command) (s t : State), BlockInv s → s.fault = false → perform c s = .next t → t.cause ≠ 0x6#4

/-! ### Reset (spec/70_reset_and_hazards.md, spec/10_state.md R50) -/

/-- R50: the state right after reset has every flag, CAUSE and STATUS zero and an idle port. What its data registers
hold is a free value of the model (log 4), and nothing is said of it. -/
def Obligations.ResetStateIsClear : Prop :=
  State.reset.aV = false ∧ State.reset.dV = false ∧ State.reset.saV = false ∧ State.reset.sbV = false ∧
  State.reset.ptaV = false ∧ State.reset.ptcV = false ∧ State.reset.rV = false ∧ State.reset.fault = false ∧
  State.reset.cause = 0x0#4 ∧ statusWord State.reset = 0x00000000#32 ∧ State.reset.port = .idle ∧
  busyPin State.reset = false

/-- R260, with the model's convention of log 11 that reset goes before everything else in a step: a step that samples
`rst` leaves the reset state, whatever the block was doing: a command in progress is abandoned, a response is
dropped. -/
def Obligations.ResetPinResetsTheBlock : Prop :=
  ∀ s : State, (sampledPins s).rst = true →
    ∃ t, step s = .next t ∧ t.port = .idle ∧ statusWord t = 0x00000000#32 ∧ t.inputs = s.inputs.tail ∧
      t.aV = false ∧ t.dV = false ∧ t.saV = false ∧ t.sbV = false ∧ t.ptaV = false ∧ t.ptcV = false ∧
      t.rV = false ∧ t.fault = false ∧ t.cause = 0x0#4

/-- R261: CLEAR and reset reach the same state; they differ only in that CLEAR is answered. That the unspecified data
registers are the same free values too is the model's choice (log 5). -/
def Obligations.ClearAndResetReachTheSameState : Prop :=
  ∀ s t : State, exec .clear s = .next t → t.port = .responding [0x00#8] ∧ resetBlock s = { t with port := .idle }

/-! ### The invariant -/

/-- The state right after reset meets the invariant. -/
def Obligations.ResetMeetsTheInvariant : Prop := BlockInv State.reset

/-- R21, R23, R30, R31, R86, R87: every step keeps the invariant: valid scalars are canonical, valid results are the
results of the operands that are loaded, CAUSE is 0 exactly without a fault and names a cause with one, responses
have an allowed form. -/
def Obligations.StepKeepsTheInvariant : Prop :=
  ∀ s t : State, BlockInv s → step s = .next t → BlockInv t

/-- R22: in a state that meets the invariant, a valid D0 or D1 is never a negative zero. -/
def Obligations.NoNegativeZeroIsStored : Prop :=
  ∀ s : State, BlockInv s → s.dV = true →
    (s.d0.mag = 0#129 → s.d0.neg = false) ∧ (s.d1.mag = 0#129 → s.d1.neg = false)

/-! ### The reducer's algorithm (spec/40_lattice_reducer.md) -/

/-- R118: `nearest(p, n)` is `floor((2p + n) / (2n))`, which is the integer nearest to `p / n`, the larger of two equally
near ones; and in a tie the two candidate rows are equally long. -/
def Obligations.NearestRoundsHalfUp : Prop :=
  (∀ p n : Int, 0 < n →
    nearest p n = Int.fdiv (2 * p + n) (2 * n) ∧
    (∀ m : Int, (p - nearest p n * n).natAbs ≤ (p - m * n).natAbs) ∧
    (∀ m : Int, (p - m * n).natAbs = (p - nearest p n * n).natAbs → m ≤ nearest p n)) ∧
  nearest 1 2 = 1 ∧ nearest (-1) 2 = 0 ∧ nearest 3 2 = 2 ∧ nearest (-3) 2 = -1 ∧
  ∀ u v : Row, 0 < rowNorm v → (2 * rowInner u v + rowNorm v) % (2 * rowNorm v) = 0 →
    rowNorm ⟨u.x - (nearest (rowInner u v) (rowNorm v) - 1) * v.x,
      u.y - (nearest (rowInner u v) (rowNorm v) - 1) * v.y⟩ = rowNorm (reducedRow u v)

/-- R119 items 1 to 4: the loop invariants hold at the start, every exchange keeps them, and the candidate row is never
longer than the row it replaces. -/
def Obligations.ReducerLoopKeepsItsInvariants : Prop :=
  (∀ a : Nat, a < Config.ell → RowsSound a ⟨Config.ell, 0⟩ ⟨a, 1⟩) ∧
  ∀ (a : Nat) (u v : Row), RowsSound a u v →
    1 ≤ rowNorm v ∧ rowNorm (reducedRow u v) ≤ rowNorm u ∧
    (rowNorm (reducedRow u v) < rowNorm v → RowsSound a v (reducedRow u v))

/-- R119 item 5, R116: the loop always leaves by its exit test, never by running out of passes: any larger bound gives
the same result, and the result is a row whose candidate is not shorter. -/
def Obligations.ReducerLoopEndsByItsExitTest : Prop :=
  ∀ a : Nat, a < Config.ell →
    (∀ n, reduceFuel a ≤ n → reduceRows n ⟨Config.ell, 0⟩ ⟨a, 1⟩ = fsv a) ∧
    ∃ u, RowsSound a u (fsv a) ∧ rowNorm (fsv a) ≤ rowNorm (reducedRow u (fsv a))

/-- R110 items 1 to 4, with the bound of R121 item 1: the pair is in the lattice, both magnitudes are below `2^127`
(so below VOI's `2^128` and `2^129`), `d1` is not zero, and zero gives `(0, 1)`. -/
def Obligations.ShortVectorMeetsTheContract : Prop :=
  (∀ a : Nat, a < Config.ell →
    (Config.ell : Int) ∣ (fsv a).x - (a : Int) * (fsv a).y ∧
    (fsv a).x.natAbs < 2 ^ 127 ∧ (fsv a).y.natAbs < 2 ^ 127 ∧ (fsv a).y ≠ 0) ∧
  fsv 0 = ⟨0, 1⟩

/-- R121 item 3: the pair is a shortest nonzero vector of the lattice: it lies in the lattice, is not zero, and no nonzero
vector of the lattice is shorter. -/
def Obligations.ShortVectorIsShortest : Prop :=
  ∀ a : Nat, a < Config.ell →
    InLattice a (fsv a) ∧ fsv a ≠ ⟨0, 0⟩ ∧
    ∀ w : Row, InLattice a w → w ≠ ⟨0, 0⟩ → rowNorm (fsv a) ≤ rowNorm w

/-- R125: operands up to `2^125`, and `2^126`, leave in the first pass; `ELL − 1` and `ELL − 2` give `(1, −1)` and
`(2, −1)`. -/
def Obligations.SmallAndLargeOperandsReduceAsStated : Prop :=
  (∀ a : Nat, 1 ≤ a → a ≤ 2 ^ 125 → fsv a = ⟨a, 1⟩) ∧ fsv (2 ^ 126) = ⟨2 ^ 126, 1⟩ ∧
  fsv (Config.ell - 1) = ⟨1, -1⟩ ∧ fsv (Config.ell - 2) = ⟨2, -1⟩

/-- R120: `to_si` is sign and magnitude, zero is not negative, and a magnitude of `2^129` or more is reported. -/
def Obligations.ToSiSplitsSignAndMagnitude : Prop :=
  ∀ x : Int,
    (x.natAbs < 2 ^ 129 → ∃ d, toSi x = .ok d ∧ signedVal d = x ∧ d.mag.toNat = x.natAbs ∧
      (d.neg = true ↔ x < 0) ∧ (signedImage d).toNat = (if x < 0 then 2 ^ 129 else 0) + x.natAbs) ∧
    (2 ^ 129 ≤ x.natAbs → toSi x = .error .invariant)

/-! ### The scalar ring and the signed digits (spec/41_scalar_ring_naf.md) -/

/-- R141 to R145: what the ring operations give, with the corner cases the rules name; `sc_to_bytes` gives the 32
little-endian bytes of a canonical value, the top three bits zero, and refuses any other with F_INVARIANT. -/
def Obligations.ScalarRingOperationsAreExact : Prop :=
  (∀ x y : Nat, scMul x y < Config.ell ∧ scMul x y ≡ x * y [MOD Config.ell]) ∧
  (∀ x : Nat, x < Config.ell → scMul x 0 = 0 ∧ scMul x 1 = x) ∧
  scMul (Config.ell - 1) (Config.ell - 1) = 1 ∧ scMul (Config.ell - 1) (2 ^ 125) = Config.ell - 2 ^ 125 ∧
  scNeg 0 = 0 ∧ scNeg 1 = Config.ell - 1 ∧
  (∀ x : Nat, x < Config.ell → scNeg (scNeg x) = x ∧ (x ≠ 0 → scNeg x = Config.ell - x)) ∧
  (∀ x : Nat, x < Config.ell →
    ∃ bytes, scToBytes x = .ok bytes ∧ bytes.length = Config.scalarBytes ∧ fromLe bytes = x ∧
      (bytes.getD 31 0x00#8).toNat < 2 ^ 5) ∧
  (∀ x : Nat, Config.ell ≤ x → scToBytes x = .error .invariant) ∧
  scToBytes 1 = .ok (0x01#8 :: List.replicate 31 0x00#8) ∧
  (∀ buf : List Byte, scSetBits buf < Config.ell ∧ scSetBits buf ≡ fromLe buf [MOD Config.ell]) ∧
  (∀ buf : List Byte, fromLe buf < Config.ell → scSetBits buf = fromLe buf) ∧
  scSetBits (List.replicate 16 0xff#8 ++ List.replicate 16 0x00#8) = 2 ^ 128 - 1 ∧
  (∀ d : SignedInt, siToScalar d = d.mag.toNat)

/-- R188: the split of a canonical `db` is its low and high 128 bits, both below `2^128`, the high one below `2^125`,
and `db = e0 + 2^128·e1`. -/
def Obligations.SplitCutsAtBit128 : Prop :=
  ∀ db : Nat, db < Config.ell →
    ∃ e0 e1, splitDb db = .ok (e0, e1) ∧ e0 = db % 2 ^ 128 ∧ e1 = db / 2 ^ 128 ∧
      e0 < 2 ^ 128 ∧ e1 < 2 ^ 125 ∧ db = e0 + 2 ^ 128 * e1

/-- R149 items 1 to 5, R150, R147: the expansion of any `k < 2^255` at any width 2 to 8 exists, has 256 digits, stands for
`k`; nonzero digits are odd, below `2^(w−1)`, at least `w` positions apart, at positions no higher than the bit length
of `k`, and their table index is in range; a scalar below `2^253` has digits 254 and 255 zero. -/
def Obligations.NafDigitsMeetTheirContract : Prop :=
  ∀ k w : Nat, 2 ≤ w → w ≤ 8 → k < 2 ^ 255 →
    ∃ n, naf k w = .ok n ∧ n.length = 256 ∧ digitSum n = k ∧
      (∀ j, digitAt n j ≠ 0 → digitAt n j % 2 = 1 ∧ (digitAt n j).natAbs ≤ 2 ^ (w - 1) - 1 ∧
        1 ≤ ((digitAt n j).natAbs + 1) / 2 ∧ ((digitAt n j).natAbs + 1) / 2 ≤ 2 ^ (w - 2)) ∧
      (∀ j i, digitAt n j ≠ 0 → 1 ≤ i → i < w → digitAt n (j + i) = 0) ∧
      (∀ m j, k < 2 ^ m → digitAt n j ≠ 0 → j ≤ m) ∧
      (k < 2 ^ 253 → digitAt n 254 = 0 ∧ digitAt n 255 = 0)

/-! ### The group and the tables (spec/42_group_and_tables.md) -/

/-- R162: the laws of scalar multiplication, in every abelian group; the premise of the last one holds for `B` and
`B128` in every group that meets R8. -/
def Obligations.ScalarMultiplicationLaws : Prop :=
  (∀ (α : Type) (G : GroupOps α), G.Abelian →
    ∀ (k m : Int) (P Q : α),
      G.smul (k + m) P = G.gadd (G.smul k P) (G.smul m P) ∧
      G.smul (k * m) P = G.smul k (G.smul m P) ∧
      G.smul k (G.gadd P Q) = G.gadd (G.smul k P) (G.smul k Q) ∧
      G.smul k (G.gneg P) = G.smul (-k) P ∧ G.smul (-k) P = G.gneg (G.smul k P) ∧
      G.gdouble (G.smul k P) = G.smul (2 * k) P ∧
      (G.smul (Config.ell : Int) P = G.ident → G.smul k P = G.smul (k % (Config.ell : Int)) P)) ∧
  ∀ (α : Type) (G : GroupOps α), G.Lawful →
    G.smul (Config.ell : Int) G.base = G.ident ∧ G.smul (Config.ell : Int) (base128 G) = G.ident

/-- R171: the high half of a split is folded back by `B128`, in every abelian group: no reduction mod ELL, and
nothing assumed of the order of `B`. -/
def Obligations.Base128FoldsTheHighHalf : Prop :=
  ∀ (α : Type) (G : GroupOps α), G.Abelian →
    (∀ e : Int, G.smul e (base128 G) = G.smul (e * 2 ^ 128) G.base) ∧
    ∀ e0 e1 : Int, G.gadd (G.smul e0 G.base) (G.smul e1 (base128 G)) = G.smul (e0 + 2 ^ 128 * e1) G.base

/-- R164: in every abelian group the built table has eight entries, and entry `k` is `[2k − 1]P`; for the identity all are the identity. -/
def Obligations.BuiltTableHoldsOddMultiples : Prop :=
  ∀ (α : Type) (G : GroupOps α), G.Abelian →
    (∀ P : α, (buildTable G P).length = 8 ∧
      ∀ k : Nat, 1 ≤ k → k ≤ 8 → (buildTable G P)[k - 1]? = some (G.smul (2 * (k : Int) - 1) P)) ∧
    buildTable G G.ident = List.replicate 8 G.ident

/-- R168: the two static tables have 64 entries, entry `k` being `[2k − 1]B` and `[2k − 1][2^128]B`. -/
def Obligations.StaticTablesHoldOddMultiples : Prop :=
  ∀ (α : Type) (G : GroupOps α), (tableB G).length = 64 ∧ (tableB128 G).length = 64 ∧
    ∀ k : Nat, 1 ≤ k → k ≤ 64 →
      (tableB G)[k - 1]? = some (G.smul (2 * (k : Int) - 1) G.base) ∧
      (tableB128 G)[k - 1]? = some (G.smul (2 * (k : Int) - 1) (G.smul (2 ^ 128) G.base))

/-- R166, R169, R70: in every abelian group a positive odd digit looks up its own multiple, up to 15 in a built table and
up to 127 in a static one. -/
def Obligations.LookupGivesTheDigitsMultiple : Prop :=
  ∀ (α : Type) (G : GroupOps α), G.Abelian → ∀ d : Int, 0 < d → d % 2 = 1 →
    (∀ P : α, d ≤ 15 → lookup G (buildTable G P) d = G.smul d P) ∧
    (d ≤ 127 → lookup G (tableB G) d = G.smul d G.base ∧ lookup G (tableB128 G) d = G.smul d (base128 G))

/-! ### The evaluation (spec/43_naf_evaluator.md) -/

/-- R192, R193: the starting index is the largest of the positions 255 to 0 at which an array has a nonzero digit; with
none, the scan answers the identity. -/
def Obligations.StartIndexIsTheLargestNonzero : Prop :=
  (∀ (N : Digits) (i : Nat), startIndex N = some i ↔
    i ≤ 255 ∧ (digitAt N.n0 i ≠ 0 ∨ digitAt N.n1 i ≠ 0 ∨ digitAt N.n2 i ≠ 0 ∨ digitAt N.n3 i ≠ 0) ∧
    ∀ j, i < j → j ≤ 255 → digitAt N.n0 j = 0 ∧ digitAt N.n1 j = 0 ∧ digitAt N.n2 j = 0 ∧ digitAt N.n3 j = 0) ∧
  (∀ N : Digits, startIndex N = none ↔
    ∀ j, j ≤ 255 → digitAt N.n0 j = 0 ∧ digitAt N.n1 j = 0 ∧ digitAt N.n2 j = 0 ∧ digitAt N.n3 j = 0) ∧
  ∀ (α : Type) (G : GroupOps α) (N : Digits) (T : Tables α), scan G none N T = G.ident

/-- R196: in every abelian group, the scan over digits that the tables can serve computes the sum of the four
expanded scalars' multiples. -/
def Obligations.ScanComputesTheFourTermSum : Prop :=
  ∀ (α : Type) (G : GroupOps α) (N : Digits) (ab : Absorbed α), G.Abelian → DigitsFit N →
    scan G (startIndex N) N (tablesOf G ab) =
      G.gadd (G.gadd (G.gadd (G.smul (digitSum N.n0) ab.pointA) (G.smul (digitSum N.n1) G.base))
        (G.smul (digitSum N.n2) (base128 G))) (G.smul (digitSum N.n3) ab.pointC)

/-- R197: in every abelian group, for every pair of SignedIntegers (so for every reducer output), steps 1 to 5 succeed
and compute `[d0]A + [db]B − [d1]C` with `db = (b · d1) mod ELL`. -/
def Obligations.EvaluationIdentityInEveryGroup : Prop :=
  ∀ (α : Type) (G : GroupOps α) (d0 d1 : SignedInt) (A C : α) (b : Nat), G.Abelian → b < Config.ell →
    ∃ ev, evaluateWith G d0 d1 A b C = .ok ev ∧ ev.d0 = d0 ∧ ev.d1 = d1 ∧
      ev.r = G.gadd
        (G.gadd (G.smul (signedVal d0) A)
          (G.smul (((b : Int) * signedVal d1) % (Config.ell : Int)) G.base))
        (G.gneg (G.smul (signedVal d1) C))

/-- R198: in every group that meets R8, when `[ELL]A` is the identity, the result is `[d1]([a]A + [b]B − C)`, the unscaled target times the factor
δ = d1 that the host reads in D1. -/
def Obligations.ResultIsTheTargetTimesDelta : Prop :=
  ∀ (α : Type) (G : GroupOps α) (a b : Nat) (A C : α), G.Lawful → a < Config.ell → b < Config.ell →
    G.smul (Config.ell : Int) A = G.ident →
    ∃ ev, evaluate G a A b C = .ok ev ∧ signedVal ev.d1 = (fsv a).y ∧
      ev.r = G.smul (signedVal ev.d1)
        (G.gadd (G.gadd (G.smul (a : Int) A) (G.smul (b : Int) G.base)) (G.gneg C))

/-- R198: in every group that meets R8, for `A` and `C` of order dividing ELL, the result is the identity exactly when the unscaled target
`[a]A + [b]B − C` is: the scaling by δ does not change a verifier's verdict. -/
def Obligations.IdentityVerdictSurvivesTheScaling : Prop :=
  ∀ (α : Type) (G : GroupOps α) (a b : Nat) (A C : α), G.Lawful → a < Config.ell → b < Config.ell →
    G.smul (Config.ell : Int) A = G.ident → G.smul (Config.ell : Int) C = G.ident →
    ∃ ev, evaluate G a A b C = .ok ev ∧
      (ev.r = G.ident ↔
        G.gadd (G.gadd (G.smul (a : Int) A) (G.smul (b : Int) G.base)) (G.gneg C) = G.ident)

/-- R203 item 3, R204: in every abelian group `a = 0` gives `(d0, d1) = (0, 1)` and `R = [b]B − C` for any `A`; with `b = 0` too, `R = −C`. -/
def Obligations.ZeroScalarGivesTheTwoTermResult : Prop :=
  ∀ (α : Type) (G : GroupOps α) (b : Nat) (A C : α), G.Abelian → b < Config.ell →
    (∃ ev, evaluate G 0 A b C = .ok ev ∧ signedVal ev.d0 = 0 ∧ signedVal ev.d1 = 1 ∧
      ev.r = G.gadd (G.smul (b : Int) G.base) (G.gneg C)) ∧
    ∃ ev, evaluate G 0 A 0 C = .ok ev ∧ ev.r = G.gneg C
end

