-- ==== Sys2Proof/Laws/Bytes.lean ====
section
/-! SUPPORT. Little-endian byte strings and the opcode map: the lemmas that a claim about encodings cites instead of
unfolding `toLe`, `fromLe` and the thirteen-way matches. -/

namespace Sys2Proof

@[simp] theorem toLe_length (n x : Nat) : (toLe n x).length = n := by
  induction n generalizing x with
  | zero => rfl
  | succ n ih => simp [toLe, ih]

theorem fromLe_toLe (n x : Nat) : fromLe (toLe n x) = x % 256 ^ n := by
  induction n generalizing x with
  | zero => simp [toLe, fromLe, Nat.mod_one]
  | succ n ih =>
    rw [toLe, fromLe, ih, BitVec.toNat_ofNat, show 256 ^ (n + 1) = 256 * 256 ^ n from Nat.pow_succ',
      Nat.mod_mul, show (2 : Nat) ^ 8 = 256 from rfl]

theorem fromLe_lt (bs : List Byte) : fromLe bs < 256 ^ bs.length := by
  induction bs with
  | nil => simp [fromLe]
  | cons b bs ih =>
    have hb : b.toNat < 256 := b.isLt
    have hp : 256 ^ (b :: bs).length = 256 * 256 ^ bs.length := by
      rw [List.length_cons, Nat.pow_succ']
    rw [hp, fromLe]
    omega

theorem toLe_fromLe (bs : List Byte) : toLe bs.length (fromLe bs) = bs := by
  induction bs with
  | nil => rfl
  | cons b bs ih =>
    have hb : b.toNat < 256 := b.isLt
    have hd : (b.toNat + 256 * fromLe bs) / 256 = fromLe bs := by omega
    rw [List.length_cons, fromLe, toLe, hd, ih]
    congr 1
    apply BitVec.eq_of_toNat_eq
    rw [BitVec.toNat_ofNat]
    omega

theorem fromLe_append (bs cs : List Byte) :
    fromLe (bs ++ cs) = fromLe bs + 256 ^ bs.length * fromLe cs := by
  induction bs with
  | nil => simp [fromLe]
  | cons b bs ih =>
    rw [List.cons_append, fromLe, fromLe, ih, List.length_cons, Nat.pow_succ']
    ring

theorem fromLe_replicate_zero (n : Nat) : fromLe (List.replicate n 0#8) = 0 := by
  induction n with
  | zero => rfl
  | succ n ih => simp [List.replicate_succ, fromLe, ih]

/-- The opcode map is one map read in both directions. -/
@[simp] theorem opcodeOfByte_opcodeByte (o : Opcode) : opcodeOfByte (opcodeByte o) = some o := by
  cases o <;> decide

theorem opcodeByte_of_opcodeOfByte {b : Byte} {o : Opcode} (h : opcodeOfByte b = some o) :
    opcodeByte o = b := by
  revert b o
  decide

/-- The length test of the decoder accepts exactly the payloads of well-formed instructions. -/
theorem instrPayload_length {i : Instr} (h : wellFormed i = true) :
    (instrPayload i).length = payloadLength (opcodeFormat (instrOpcode i)) := by
  cases i <;>
    simp_all [instrPayload, instrOpcode, opcodeFormat, payloadLength, wellFormed]

end Sys2Proof
end

