-- ==== Sys2Proof/Laws/Group.lean ====
section
/-! SUPPORT. The group parameter as an abelian group of Mathlib, and what a table entry, a lookup and one addition of
the scan are, in any abelian group. -/

namespace Sys2Proof

variable {α : Type} {G : GroupOps α}

/-- The group operations as an additive commutative group: `ident` is 0, `gadd` is +, `gneg` is −. -/
@[reducible] def GroupOps.Abelian.addCommGroup (h : G.Abelian) : AddCommGroup α :=
  letI : Zero α := ⟨G.ident⟩
  letI : Add α := ⟨G.gadd⟩
  letI : Neg α := ⟨G.gneg⟩
  { add_assoc := h.gadd_assoc, add_comm := h.gadd_comm,
    zero_add := fun a => (h.gadd_comm _ _).trans (h.gadd_ident a), add_zero := h.gadd_ident,
    neg_add_cancel := fun a => (h.gadd_comm _ _).trans (h.gadd_gneg a),
    nsmul := nsmulRec, zsmul := zsmulRec }

/-- `[k]P` is the integer multiple of that group. -/
theorem GroupOps.Abelian.smul_eq_zsmul (h : G.Abelian) (k : Int) (P : α) :
    G.smul k P = (letI := h.addCommGroup; k • P) := by
  let _ := h.addCommGroup
  have hn : ∀ n : Nat, G.smul n P = (n:Int) • P := by
    intro n
    induction n with
    | zero => simp only [Nat.cast_zero, zero_zsmul]; exact h.smul_zero P
    | succ n ih => push_cast; rw [h.smul_succ, ih, add_zsmul, one_zsmul]; rfl
  obtain ⟨n, rfl | rfl⟩ := k.eq_nat_or_neg
  · exact hn n
  · rw [h.smul_neg, hn, neg_zsmul]; rfl

end Sys2Proof

namespace Sys2Proof.Machine

variable {α : Type} {G : GroupOps α}

/-- The entries from an odd multiple on are the odd multiples that follow. -/
theorem buildFrom_getElem? (h : G.Abelian) (P : α) : ∀ (n : Nat) (c : Nat),
    (buildFrom G (G.gdouble P) n (G.smul (2*c+1) P)).length = n ∧ ∀ k, k < n → (buildFrom G (G.gdouble P) n (G.smul (2*c+1) P))[k]? = some (G.smul (2*(c+k : Nat)+1) P) := by
  intro n
  induction n with
  | zero => intro c; exact ⟨rfl, fun k hk => absurd hk (by omega)⟩
  | succ n ih =>
    intro c
    have hs : G.gadd (G.smul (2*c+1) P) (G.gdouble P) = G.smul (2*((c+1 : Nat):Int)+1) P := by
      let _ := h.addCommGroup
      rw [h.gdouble_eq, h.smul_eq_zsmul, h.smul_eq_zsmul]
      show _ + (P + P) = _
      push_cast
      simp only [add_zsmul, mul_zsmul, two_zsmul, one_zsmul]; abel
    obtain ⟨i1, i2⟩ := ih (c+1)
    rw [buildFrom, hs]
    refine ⟨by rw [List.length_cons, i1], fun k hk => ?_⟩
    cases k with
    | zero => simp
    | succ k => rw [List.getElem?_cons_succ, i2 k (by omega)]; congr 4; push_cast; ring

/-- A lookup in a table of `n` odd multiples of `P`. -/
theorem lookup_eq_smul {T : List α} {P : α} {n : Nat} (ht : ∀ k : Nat, k < n → T[k]? = some (G.smul (2*(k:Int)+1) P)) (d : Int) (h0 : 0 < d) (h1 : d % 2 = 1) (h2 : d < 2 * n) :
   lookup G T d = G.smul d P := by
  rw [lookup, List.getD_eq_getElem?_getD, tableIndex, ht _ (by omega), Option.getD_some]
  congr 1; omega

/-- One pair of the scan adds the digit's multiple, whatever the digit's sign. -/
theorem addDigit_eq (h : G.Abelian) {T : List α} {P : α} {w : Nat} (hw : 2 ≤ w)
    (ht : ∀ k : Nat, k < 2^(w-2) → T[k]? = some (G.smul (2*(k:Int)+1) P)) (d : Int) (hd : DigitFits w d) (acc : α) :
    addDigit G T d acc = G.gadd acc (G.smul d P) := by
  have hp : (2:Nat)^(w-1) = 2 * 2^(w-2) := by rw [show w - 1 = (w-2)+1 by omega, Nat.pow_succ']
  have hp' : (((2:Nat)^(w-2) : Nat) : Int) = 2^(w-2) := by push_cast; rfl
  unfold addDigit
  rcases hd with rfl | ⟨h1, h2⟩
  · simp [h.smul_zero, h.gadd_ident]
  · split
    · rw [lookup_eq_smul ht d (by omega) h1 (by omega)]
    · split
      · rw [lookup_eq_smul ht (-d) (by omega) (by omega) (by omega)]
        let _ := h.addCommGroup
        rw [h.smul_eq_zsmul, h.smul_eq_zsmul, neg_zsmul]
        show G.gadd acc (- -_) = _
        rw [neg_neg]
      · omega

end Sys2Proof.Machine
end

