-- ==== Sys2Proof/Laws/State.lean ====
section
/-! SUPPORT. One lemma per field per state update: what each named operation of Machine/Ops.lean and Machine/Port.lean
leaves in each field of the state. -/

namespace Sys2Proof.Machine

/-! ### respond -/

@[simp] theorem respond_a (rc : Byte) (data : List Byte) (s : State) : (respond rc data s).a = s.a := rfl
@[simp] theorem respond_d0 (rc : Byte) (data : List Byte) (s : State) : (respond rc data s).d0 = s.d0 := rfl
@[simp] theorem respond_d1 (rc : Byte) (data : List Byte) (s : State) : (respond rc data s).d1 = s.d1 := rfl
@[simp] theorem respond_sa (rc : Byte) (data : List Byte) (s : State) : (respond rc data s).sa = s.sa := rfl
@[simp] theorem respond_sb (rc : Byte) (data : List Byte) (s : State) : (respond rc data s).sb = s.sb := rfl
@[simp] theorem respond_pta (rc : Byte) (data : List Byte) (s : State) : (respond rc data s).pta = s.pta := rfl
@[simp] theorem respond_ptc (rc : Byte) (data : List Byte) (s : State) : (respond rc data s).ptc = s.ptc := rfl
@[simp] theorem respond_r (rc : Byte) (data : List Byte) (s : State) : (respond rc data s).r = s.r := rfl
@[simp] theorem respond_aV (rc : Byte) (data : List Byte) (s : State) : (respond rc data s).aV = s.aV := rfl
@[simp] theorem respond_dV (rc : Byte) (data : List Byte) (s : State) : (respond rc data s).dV = s.dV := rfl
@[simp] theorem respond_saV (rc : Byte) (data : List Byte) (s : State) : (respond rc data s).saV = s.saV := rfl
@[simp] theorem respond_sbV (rc : Byte) (data : List Byte) (s : State) : (respond rc data s).sbV = s.sbV := rfl
@[simp] theorem respond_ptaV (rc : Byte) (data : List Byte) (s : State) : (respond rc data s).ptaV = s.ptaV := rfl
@[simp] theorem respond_ptcV (rc : Byte) (data : List Byte) (s : State) : (respond rc data s).ptcV = s.ptcV := rfl
@[simp] theorem respond_rV (rc : Byte) (data : List Byte) (s : State) : (respond rc data s).rV = s.rV := rfl
@[simp] theorem respond_fault (rc : Byte) (data : List Byte) (s : State) : (respond rc data s).fault = s.fault := rfl
@[simp] theorem respond_cause (rc : Byte) (data : List Byte) (s : State) : (respond rc data s).cause = s.cause := rfl
@[simp] theorem respond_port (rc : Byte) (data : List Byte) (s : State) : (respond rc data s).port = .responding (rc :: data) := rfl
@[simp] theorem respond_inputs (rc : Byte) (data : List Byte) (s : State) : (respond rc data s).inputs = s.inputs := rfl
@[simp] theorem respond_clears (rc : Byte) (data : List Byte) (s : State) : (respond rc data s).clears = s.clears := rfl

/-! ### writeA -/

@[simp] theorem writeA_a (x : Scalar) (s : State) : (writeA x s).a = x := rfl
@[simp] theorem writeA_d0 (x : Scalar) (s : State) : (writeA x s).d0 = s.d0 := rfl
@[simp] theorem writeA_d1 (x : Scalar) (s : State) : (writeA x s).d1 = s.d1 := rfl
@[simp] theorem writeA_sa (x : Scalar) (s : State) : (writeA x s).sa = s.sa := rfl
@[simp] theorem writeA_sb (x : Scalar) (s : State) : (writeA x s).sb = s.sb := rfl
@[simp] theorem writeA_pta (x : Scalar) (s : State) : (writeA x s).pta = s.pta := rfl
@[simp] theorem writeA_ptc (x : Scalar) (s : State) : (writeA x s).ptc = s.ptc := rfl
@[simp] theorem writeA_r (x : Scalar) (s : State) : (writeA x s).r = s.r := rfl
@[simp] theorem writeA_aV (x : Scalar) (s : State) : (writeA x s).aV = true := rfl
@[simp] theorem writeA_dV (x : Scalar) (s : State) : (writeA x s).dV = false := rfl
@[simp] theorem writeA_saV (x : Scalar) (s : State) : (writeA x s).saV = s.saV := rfl
@[simp] theorem writeA_sbV (x : Scalar) (s : State) : (writeA x s).sbV = s.sbV := rfl
@[simp] theorem writeA_ptaV (x : Scalar) (s : State) : (writeA x s).ptaV = s.ptaV := rfl
@[simp] theorem writeA_ptcV (x : Scalar) (s : State) : (writeA x s).ptcV = s.ptcV := rfl
@[simp] theorem writeA_rV (x : Scalar) (s : State) : (writeA x s).rV = s.rV := rfl
@[simp] theorem writeA_fault (x : Scalar) (s : State) : (writeA x s).fault = s.fault := rfl
@[simp] theorem writeA_cause (x : Scalar) (s : State) : (writeA x s).cause = s.cause := rfl
@[simp] theorem writeA_port (x : Scalar) (s : State) : (writeA x s).port = s.port := rfl
@[simp] theorem writeA_inputs (x : Scalar) (s : State) : (writeA x s).inputs = s.inputs := rfl
@[simp] theorem writeA_clears (x : Scalar) (s : State) : (writeA x s).clears = s.clears := rfl

/-! ### writeD -/

@[simp] theorem writeD_a (x y : SignedInt) (s : State) : (writeD x y s).a = s.a := rfl
@[simp] theorem writeD_d0 (x y : SignedInt) (s : State) : (writeD x y s).d0 = x := rfl
@[simp] theorem writeD_d1 (x y : SignedInt) (s : State) : (writeD x y s).d1 = y := rfl
@[simp] theorem writeD_sa (x y : SignedInt) (s : State) : (writeD x y s).sa = s.sa := rfl
@[simp] theorem writeD_sb (x y : SignedInt) (s : State) : (writeD x y s).sb = s.sb := rfl
@[simp] theorem writeD_pta (x y : SignedInt) (s : State) : (writeD x y s).pta = s.pta := rfl
@[simp] theorem writeD_ptc (x y : SignedInt) (s : State) : (writeD x y s).ptc = s.ptc := rfl
@[simp] theorem writeD_r (x y : SignedInt) (s : State) : (writeD x y s).r = s.r := rfl
@[simp] theorem writeD_aV (x y : SignedInt) (s : State) : (writeD x y s).aV = s.aV := rfl
@[simp] theorem writeD_dV (x y : SignedInt) (s : State) : (writeD x y s).dV = true := rfl
@[simp] theorem writeD_saV (x y : SignedInt) (s : State) : (writeD x y s).saV = s.saV := rfl
@[simp] theorem writeD_sbV (x y : SignedInt) (s : State) : (writeD x y s).sbV = s.sbV := rfl
@[simp] theorem writeD_ptaV (x y : SignedInt) (s : State) : (writeD x y s).ptaV = s.ptaV := rfl
@[simp] theorem writeD_ptcV (x y : SignedInt) (s : State) : (writeD x y s).ptcV = s.ptcV := rfl
@[simp] theorem writeD_rV (x y : SignedInt) (s : State) : (writeD x y s).rV = s.rV := rfl
@[simp] theorem writeD_fault (x y : SignedInt) (s : State) : (writeD x y s).fault = s.fault := rfl
@[simp] theorem writeD_cause (x y : SignedInt) (s : State) : (writeD x y s).cause = s.cause := rfl
@[simp] theorem writeD_port (x y : SignedInt) (s : State) : (writeD x y s).port = s.port := rfl
@[simp] theorem writeD_inputs (x y : SignedInt) (s : State) : (writeD x y s).inputs = s.inputs := rfl
@[simp] theorem writeD_clears (x y : SignedInt) (s : State) : (writeD x y s).clears = s.clears := rfl

/-! ### writeSA -/

@[simp] theorem writeSA_a (x : Scalar) (s : State) : (writeSA x s).a = s.a := rfl
@[simp] theorem writeSA_d0 (x : Scalar) (s : State) : (writeSA x s).d0 = s.d0 := rfl
@[simp] theorem writeSA_d1 (x : Scalar) (s : State) : (writeSA x s).d1 = s.d1 := rfl
@[simp] theorem writeSA_sa (x : Scalar) (s : State) : (writeSA x s).sa = x := rfl
@[simp] theorem writeSA_sb (x : Scalar) (s : State) : (writeSA x s).sb = s.sb := rfl
@[simp] theorem writeSA_pta (x : Scalar) (s : State) : (writeSA x s).pta = s.pta := rfl
@[simp] theorem writeSA_ptc (x : Scalar) (s : State) : (writeSA x s).ptc = s.ptc := rfl
@[simp] theorem writeSA_r (x : Scalar) (s : State) : (writeSA x s).r = s.r := rfl
@[simp] theorem writeSA_aV (x : Scalar) (s : State) : (writeSA x s).aV = s.aV := rfl
@[simp] theorem writeSA_dV (x : Scalar) (s : State) : (writeSA x s).dV = s.dV := rfl
@[simp] theorem writeSA_saV (x : Scalar) (s : State) : (writeSA x s).saV = true := rfl
@[simp] theorem writeSA_sbV (x : Scalar) (s : State) : (writeSA x s).sbV = s.sbV := rfl
@[simp] theorem writeSA_ptaV (x : Scalar) (s : State) : (writeSA x s).ptaV = s.ptaV := rfl
@[simp] theorem writeSA_ptcV (x : Scalar) (s : State) : (writeSA x s).ptcV = s.ptcV := rfl
@[simp] theorem writeSA_rV (x : Scalar) (s : State) : (writeSA x s).rV = false := rfl
@[simp] theorem writeSA_fault (x : Scalar) (s : State) : (writeSA x s).fault = s.fault := rfl
@[simp] theorem writeSA_cause (x : Scalar) (s : State) : (writeSA x s).cause = s.cause := rfl
@[simp] theorem writeSA_port (x : Scalar) (s : State) : (writeSA x s).port = s.port := rfl
@[simp] theorem writeSA_inputs (x : Scalar) (s : State) : (writeSA x s).inputs = s.inputs := rfl
@[simp] theorem writeSA_clears (x : Scalar) (s : State) : (writeSA x s).clears = s.clears := rfl

/-! ### writeSB -/

@[simp] theorem writeSB_a (x : Scalar) (s : State) : (writeSB x s).a = s.a := rfl
@[simp] theorem writeSB_d0 (x : Scalar) (s : State) : (writeSB x s).d0 = s.d0 := rfl
@[simp] theorem writeSB_d1 (x : Scalar) (s : State) : (writeSB x s).d1 = s.d1 := rfl
@[simp] theorem writeSB_sa (x : Scalar) (s : State) : (writeSB x s).sa = s.sa := rfl
@[simp] theorem writeSB_sb (x : Scalar) (s : State) : (writeSB x s).sb = x := rfl
@[simp] theorem writeSB_pta (x : Scalar) (s : State) : (writeSB x s).pta = s.pta := rfl
@[simp] theorem writeSB_ptc (x : Scalar) (s : State) : (writeSB x s).ptc = s.ptc := rfl
@[simp] theorem writeSB_r (x : Scalar) (s : State) : (writeSB x s).r = s.r := rfl
@[simp] theorem writeSB_aV (x : Scalar) (s : State) : (writeSB x s).aV = s.aV := rfl
@[simp] theorem writeSB_dV (x : Scalar) (s : State) : (writeSB x s).dV = s.dV := rfl
@[simp] theorem writeSB_saV (x : Scalar) (s : State) : (writeSB x s).saV = s.saV := rfl
@[simp] theorem writeSB_sbV (x : Scalar) (s : State) : (writeSB x s).sbV = true := rfl
@[simp] theorem writeSB_ptaV (x : Scalar) (s : State) : (writeSB x s).ptaV = s.ptaV := rfl
@[simp] theorem writeSB_ptcV (x : Scalar) (s : State) : (writeSB x s).ptcV = s.ptcV := rfl
@[simp] theorem writeSB_rV (x : Scalar) (s : State) : (writeSB x s).rV = false := rfl
@[simp] theorem writeSB_fault (x : Scalar) (s : State) : (writeSB x s).fault = s.fault := rfl
@[simp] theorem writeSB_cause (x : Scalar) (s : State) : (writeSB x s).cause = s.cause := rfl
@[simp] theorem writeSB_port (x : Scalar) (s : State) : (writeSB x s).port = s.port := rfl
@[simp] theorem writeSB_inputs (x : Scalar) (s : State) : (writeSB x s).inputs = s.inputs := rfl
@[simp] theorem writeSB_clears (x : Scalar) (s : State) : (writeSB x s).clears = s.clears := rfl

/-! ### writePTA -/

@[simp] theorem writePTA_a (p : Point) (s : State) : (writePTA p s).a = s.a := rfl
@[simp] theorem writePTA_d0 (p : Point) (s : State) : (writePTA p s).d0 = s.d0 := rfl
@[simp] theorem writePTA_d1 (p : Point) (s : State) : (writePTA p s).d1 = s.d1 := rfl
@[simp] theorem writePTA_sa (p : Point) (s : State) : (writePTA p s).sa = s.sa := rfl
@[simp] theorem writePTA_sb (p : Point) (s : State) : (writePTA p s).sb = s.sb := rfl
@[simp] theorem writePTA_pta (p : Point) (s : State) : (writePTA p s).pta = p := rfl
@[simp] theorem writePTA_ptc (p : Point) (s : State) : (writePTA p s).ptc = s.ptc := rfl
@[simp] theorem writePTA_r (p : Point) (s : State) : (writePTA p s).r = s.r := rfl
@[simp] theorem writePTA_aV (p : Point) (s : State) : (writePTA p s).aV = s.aV := rfl
@[simp] theorem writePTA_dV (p : Point) (s : State) : (writePTA p s).dV = s.dV := rfl
@[simp] theorem writePTA_saV (p : Point) (s : State) : (writePTA p s).saV = s.saV := rfl
@[simp] theorem writePTA_sbV (p : Point) (s : State) : (writePTA p s).sbV = s.sbV := rfl
@[simp] theorem writePTA_ptaV (p : Point) (s : State) : (writePTA p s).ptaV = true := rfl
@[simp] theorem writePTA_ptcV (p : Point) (s : State) : (writePTA p s).ptcV = s.ptcV := rfl
@[simp] theorem writePTA_rV (p : Point) (s : State) : (writePTA p s).rV = false := rfl
@[simp] theorem writePTA_fault (p : Point) (s : State) : (writePTA p s).fault = s.fault := rfl
@[simp] theorem writePTA_cause (p : Point) (s : State) : (writePTA p s).cause = s.cause := rfl
@[simp] theorem writePTA_port (p : Point) (s : State) : (writePTA p s).port = s.port := rfl
@[simp] theorem writePTA_inputs (p : Point) (s : State) : (writePTA p s).inputs = s.inputs := rfl
@[simp] theorem writePTA_clears (p : Point) (s : State) : (writePTA p s).clears = s.clears := rfl

/-! ### writePTC -/

@[simp] theorem writePTC_a (p : Point) (s : State) : (writePTC p s).a = s.a := rfl
@[simp] theorem writePTC_d0 (p : Point) (s : State) : (writePTC p s).d0 = s.d0 := rfl
@[simp] theorem writePTC_d1 (p : Point) (s : State) : (writePTC p s).d1 = s.d1 := rfl
@[simp] theorem writePTC_sa (p : Point) (s : State) : (writePTC p s).sa = s.sa := rfl
@[simp] theorem writePTC_sb (p : Point) (s : State) : (writePTC p s).sb = s.sb := rfl
@[simp] theorem writePTC_pta (p : Point) (s : State) : (writePTC p s).pta = s.pta := rfl
@[simp] theorem writePTC_ptc (p : Point) (s : State) : (writePTC p s).ptc = p := rfl
@[simp] theorem writePTC_r (p : Point) (s : State) : (writePTC p s).r = s.r := rfl
@[simp] theorem writePTC_aV (p : Point) (s : State) : (writePTC p s).aV = s.aV := rfl
@[simp] theorem writePTC_dV (p : Point) (s : State) : (writePTC p s).dV = s.dV := rfl
@[simp] theorem writePTC_saV (p : Point) (s : State) : (writePTC p s).saV = s.saV := rfl
@[simp] theorem writePTC_sbV (p : Point) (s : State) : (writePTC p s).sbV = s.sbV := rfl
@[simp] theorem writePTC_ptaV (p : Point) (s : State) : (writePTC p s).ptaV = s.ptaV := rfl
@[simp] theorem writePTC_ptcV (p : Point) (s : State) : (writePTC p s).ptcV = true := rfl
@[simp] theorem writePTC_rV (p : Point) (s : State) : (writePTC p s).rV = false := rfl
@[simp] theorem writePTC_fault (p : Point) (s : State) : (writePTC p s).fault = s.fault := rfl
@[simp] theorem writePTC_cause (p : Point) (s : State) : (writePTC p s).cause = s.cause := rfl
@[simp] theorem writePTC_port (p : Point) (s : State) : (writePTC p s).port = s.port := rfl
@[simp] theorem writePTC_inputs (p : Point) (s : State) : (writePTC p s).inputs = s.inputs := rfl
@[simp] theorem writePTC_clears (p : Point) (s : State) : (writePTC p s).clears = s.clears := rfl

/-! ### writeR -/

@[simp] theorem writeR_a (p : Point) (s : State) : (writeR p s).a = s.a := rfl
@[simp] theorem writeR_d0 (p : Point) (s : State) : (writeR p s).d0 = s.d0 := rfl
@[simp] theorem writeR_d1 (p : Point) (s : State) : (writeR p s).d1 = s.d1 := rfl
@[simp] theorem writeR_sa (p : Point) (s : State) : (writeR p s).sa = s.sa := rfl
@[simp] theorem writeR_sb (p : Point) (s : State) : (writeR p s).sb = s.sb := rfl
@[simp] theorem writeR_pta (p : Point) (s : State) : (writeR p s).pta = s.pta := rfl
@[simp] theorem writeR_ptc (p : Point) (s : State) : (writeR p s).ptc = s.ptc := rfl
@[simp] theorem writeR_r (p : Point) (s : State) : (writeR p s).r = p := rfl
@[simp] theorem writeR_aV (p : Point) (s : State) : (writeR p s).aV = s.aV := rfl
@[simp] theorem writeR_dV (p : Point) (s : State) : (writeR p s).dV = s.dV := rfl
@[simp] theorem writeR_saV (p : Point) (s : State) : (writeR p s).saV = s.saV := rfl
@[simp] theorem writeR_sbV (p : Point) (s : State) : (writeR p s).sbV = s.sbV := rfl
@[simp] theorem writeR_ptaV (p : Point) (s : State) : (writeR p s).ptaV = s.ptaV := rfl
@[simp] theorem writeR_ptcV (p : Point) (s : State) : (writeR p s).ptcV = s.ptcV := rfl
@[simp] theorem writeR_rV (p : Point) (s : State) : (writeR p s).rV = true := rfl
@[simp] theorem writeR_fault (p : Point) (s : State) : (writeR p s).fault = s.fault := rfl
@[simp] theorem writeR_cause (p : Point) (s : State) : (writeR p s).cause = s.cause := rfl
@[simp] theorem writeR_port (p : Point) (s : State) : (writeR p s).port = s.port := rfl
@[simp] theorem writeR_inputs (p : Point) (s : State) : (writeR p s).inputs = s.inputs := rfl
@[simp] theorem writeR_clears (p : Point) (s : State) : (writeR p s).clears = s.clears := rfl

/-! ### raiseFault -/

@[simp] theorem raiseFault_a (c : Cause) (s : State) : (raiseFault c s).a = s.a := rfl
@[simp] theorem raiseFault_d0 (c : Cause) (s : State) : (raiseFault c s).d0 = s.d0 := rfl
@[simp] theorem raiseFault_d1 (c : Cause) (s : State) : (raiseFault c s).d1 = s.d1 := rfl
@[simp] theorem raiseFault_sa (c : Cause) (s : State) : (raiseFault c s).sa = s.sa := rfl
@[simp] theorem raiseFault_sb (c : Cause) (s : State) : (raiseFault c s).sb = s.sb := rfl
@[simp] theorem raiseFault_pta (c : Cause) (s : State) : (raiseFault c s).pta = s.pta := rfl
@[simp] theorem raiseFault_ptc (c : Cause) (s : State) : (raiseFault c s).ptc = s.ptc := rfl
@[simp] theorem raiseFault_r (c : Cause) (s : State) : (raiseFault c s).r = s.r := rfl
@[simp] theorem raiseFault_aV (c : Cause) (s : State) : (raiseFault c s).aV = s.aV := rfl
@[simp] theorem raiseFault_dV (c : Cause) (s : State) : (raiseFault c s).dV = s.dV := rfl
@[simp] theorem raiseFault_saV (c : Cause) (s : State) : (raiseFault c s).saV = s.saV := rfl
@[simp] theorem raiseFault_sbV (c : Cause) (s : State) : (raiseFault c s).sbV = s.sbV := rfl
@[simp] theorem raiseFault_ptaV (c : Cause) (s : State) : (raiseFault c s).ptaV = s.ptaV := rfl
@[simp] theorem raiseFault_ptcV (c : Cause) (s : State) : (raiseFault c s).ptcV = s.ptcV := rfl
@[simp] theorem raiseFault_rV (c : Cause) (s : State) : (raiseFault c s).rV = s.rV := rfl
@[simp] theorem raiseFault_fault (c : Cause) (s : State) : (raiseFault c s).fault = true := rfl
@[simp] theorem raiseFault_cause (c : Cause) (s : State) : (raiseFault c s).cause = causeCode c := rfl
@[simp] theorem raiseFault_port (c : Cause) (s : State) : (raiseFault c s).port = .responding [responseCode (causeCode c)] := rfl
@[simp] theorem raiseFault_inputs (c : Cause) (s : State) : (raiseFault c s).inputs = s.inputs := rfl
@[simp] theorem raiseFault_clears (c : Cause) (s : State) : (raiseFault c s).clears = s.clears := rfl

/-! ### refuseFaulted -/

@[simp] theorem refuseFaulted_a (s : State) : (refuseFaulted s).a = s.a := rfl
@[simp] theorem refuseFaulted_d0 (s : State) : (refuseFaulted s).d0 = s.d0 := rfl
@[simp] theorem refuseFaulted_d1 (s : State) : (refuseFaulted s).d1 = s.d1 := rfl
@[simp] theorem refuseFaulted_sa (s : State) : (refuseFaulted s).sa = s.sa := rfl
@[simp] theorem refuseFaulted_sb (s : State) : (refuseFaulted s).sb = s.sb := rfl
@[simp] theorem refuseFaulted_pta (s : State) : (refuseFaulted s).pta = s.pta := rfl
@[simp] theorem refuseFaulted_ptc (s : State) : (refuseFaulted s).ptc = s.ptc := rfl
@[simp] theorem refuseFaulted_r (s : State) : (refuseFaulted s).r = s.r := rfl
@[simp] theorem refuseFaulted_aV (s : State) : (refuseFaulted s).aV = s.aV := rfl
@[simp] theorem refuseFaulted_dV (s : State) : (refuseFaulted s).dV = s.dV := rfl
@[simp] theorem refuseFaulted_saV (s : State) : (refuseFaulted s).saV = s.saV := rfl
@[simp] theorem refuseFaulted_sbV (s : State) : (refuseFaulted s).sbV = s.sbV := rfl
@[simp] theorem refuseFaulted_ptaV (s : State) : (refuseFaulted s).ptaV = s.ptaV := rfl
@[simp] theorem refuseFaulted_ptcV (s : State) : (refuseFaulted s).ptcV = s.ptcV := rfl
@[simp] theorem refuseFaulted_rV (s : State) : (refuseFaulted s).rV = s.rV := rfl
@[simp] theorem refuseFaulted_fault (s : State) : (refuseFaulted s).fault = s.fault := rfl
@[simp] theorem refuseFaulted_cause (s : State) : (refuseFaulted s).cause = s.cause := rfl
@[simp] theorem refuseFaulted_port (s : State) : (refuseFaulted s).port = .responding [responseCode s.cause] := rfl
@[simp] theorem refuseFaulted_inputs (s : State) : (refuseFaulted s).inputs = s.inputs := rfl
@[simp] theorem refuseFaulted_clears (s : State) : (refuseFaulted s).clears = s.clears := rfl

/-! ### returnToReset -/

@[simp] theorem returnToReset_a (s : State) : (returnToReset s).a = Config.freeA (s.clears + 1) := rfl
@[simp] theorem returnToReset_d0 (s : State) : (returnToReset s).d0 = Config.freeD0 (s.clears + 1) := rfl
@[simp] theorem returnToReset_d1 (s : State) : (returnToReset s).d1 = Config.freeD1 (s.clears + 1) := rfl
@[simp] theorem returnToReset_sa (s : State) : (returnToReset s).sa = Config.freeSA (s.clears + 1) := rfl
@[simp] theorem returnToReset_sb (s : State) : (returnToReset s).sb = Config.freeSB (s.clears + 1) := rfl
@[simp] theorem returnToReset_pta (s : State) : (returnToReset s).pta = Config.freePTA (s.clears + 1) := rfl
@[simp] theorem returnToReset_ptc (s : State) : (returnToReset s).ptc = Config.freePTC (s.clears + 1) := rfl
@[simp] theorem returnToReset_r (s : State) : (returnToReset s).r = Config.freeR (s.clears + 1) := rfl
@[simp] theorem returnToReset_aV (s : State) : (returnToReset s).aV = false := rfl
@[simp] theorem returnToReset_dV (s : State) : (returnToReset s).dV = false := rfl
@[simp] theorem returnToReset_saV (s : State) : (returnToReset s).saV = false := rfl
@[simp] theorem returnToReset_sbV (s : State) : (returnToReset s).sbV = false := rfl
@[simp] theorem returnToReset_ptaV (s : State) : (returnToReset s).ptaV = false := rfl
@[simp] theorem returnToReset_ptcV (s : State) : (returnToReset s).ptcV = false := rfl
@[simp] theorem returnToReset_rV (s : State) : (returnToReset s).rV = false := rfl
@[simp] theorem returnToReset_fault (s : State) : (returnToReset s).fault = false := rfl
@[simp] theorem returnToReset_cause (s : State) : (returnToReset s).cause = 0#4 := rfl
@[simp] theorem returnToReset_port (s : State) : (returnToReset s).port = s.port := rfl
@[simp] theorem returnToReset_inputs (s : State) : (returnToReset s).inputs = s.inputs := rfl
@[simp] theorem returnToReset_clears (s : State) : (returnToReset s).clears = s.clears + 1 := rfl

/-! ### resetBlock -/

@[simp] theorem resetBlock_a (s : State) : (resetBlock s).a = Config.freeA (s.clears + 1) := rfl
@[simp] theorem resetBlock_d0 (s : State) : (resetBlock s).d0 = Config.freeD0 (s.clears + 1) := rfl
@[simp] theorem resetBlock_d1 (s : State) : (resetBlock s).d1 = Config.freeD1 (s.clears + 1) := rfl
@[simp] theorem resetBlock_sa (s : State) : (resetBlock s).sa = Config.freeSA (s.clears + 1) := rfl
@[simp] theorem resetBlock_sb (s : State) : (resetBlock s).sb = Config.freeSB (s.clears + 1) := rfl
@[simp] theorem resetBlock_pta (s : State) : (resetBlock s).pta = Config.freePTA (s.clears + 1) := rfl
@[simp] theorem resetBlock_ptc (s : State) : (resetBlock s).ptc = Config.freePTC (s.clears + 1) := rfl
@[simp] theorem resetBlock_r (s : State) : (resetBlock s).r = Config.freeR (s.clears + 1) := rfl
@[simp] theorem resetBlock_aV (s : State) : (resetBlock s).aV = false := rfl
@[simp] theorem resetBlock_dV (s : State) : (resetBlock s).dV = false := rfl
@[simp] theorem resetBlock_saV (s : State) : (resetBlock s).saV = false := rfl
@[simp] theorem resetBlock_sbV (s : State) : (resetBlock s).sbV = false := rfl
@[simp] theorem resetBlock_ptaV (s : State) : (resetBlock s).ptaV = false := rfl
@[simp] theorem resetBlock_ptcV (s : State) : (resetBlock s).ptcV = false := rfl
@[simp] theorem resetBlock_rV (s : State) : (resetBlock s).rV = false := rfl
@[simp] theorem resetBlock_fault (s : State) : (resetBlock s).fault = false := rfl
@[simp] theorem resetBlock_cause (s : State) : (resetBlock s).cause = 0#4 := rfl
@[simp] theorem resetBlock_port (s : State) : (resetBlock s).port = .idle := rfl
@[simp] theorem resetBlock_inputs (s : State) : (resetBlock s).inputs = s.inputs := rfl
@[simp] theorem resetBlock_clears (s : State) : (resetBlock s).clears = s.clears + 1 := rfl

/-! ### consumeInput -/

@[simp] theorem consumeInput_a (s : State) : (consumeInput s).a = s.a := rfl
@[simp] theorem consumeInput_d0 (s : State) : (consumeInput s).d0 = s.d0 := rfl
@[simp] theorem consumeInput_d1 (s : State) : (consumeInput s).d1 = s.d1 := rfl
@[simp] theorem consumeInput_sa (s : State) : (consumeInput s).sa = s.sa := rfl
@[simp] theorem consumeInput_sb (s : State) : (consumeInput s).sb = s.sb := rfl
@[simp] theorem consumeInput_pta (s : State) : (consumeInput s).pta = s.pta := rfl
@[simp] theorem consumeInput_ptc (s : State) : (consumeInput s).ptc = s.ptc := rfl
@[simp] theorem consumeInput_r (s : State) : (consumeInput s).r = s.r := rfl
@[simp] theorem consumeInput_aV (s : State) : (consumeInput s).aV = s.aV := rfl
@[simp] theorem consumeInput_dV (s : State) : (consumeInput s).dV = s.dV := rfl
@[simp] theorem consumeInput_saV (s : State) : (consumeInput s).saV = s.saV := rfl
@[simp] theorem consumeInput_sbV (s : State) : (consumeInput s).sbV = s.sbV := rfl
@[simp] theorem consumeInput_ptaV (s : State) : (consumeInput s).ptaV = s.ptaV := rfl
@[simp] theorem consumeInput_ptcV (s : State) : (consumeInput s).ptcV = s.ptcV := rfl
@[simp] theorem consumeInput_rV (s : State) : (consumeInput s).rV = s.rV := rfl
@[simp] theorem consumeInput_fault (s : State) : (consumeInput s).fault = s.fault := rfl
@[simp] theorem consumeInput_cause (s : State) : (consumeInput s).cause = s.cause := rfl
@[simp] theorem consumeInput_port (s : State) : (consumeInput s).port = s.port := rfl
@[simp] theorem consumeInput_inputs (s : State) : (consumeInput s).inputs = s.inputs.tail := rfl
@[simp] theorem consumeInput_clears (s : State) : (consumeInput s).clears = s.clears := rfl

/-! ### acceptCommand -/

@[simp] theorem acceptCommand_a (c : Command) (s : State) : (acceptCommand c s).a = s.a := rfl
@[simp] theorem acceptCommand_d0 (c : Command) (s : State) : (acceptCommand c s).d0 = s.d0 := rfl
@[simp] theorem acceptCommand_d1 (c : Command) (s : State) : (acceptCommand c s).d1 = s.d1 := rfl
@[simp] theorem acceptCommand_sa (c : Command) (s : State) : (acceptCommand c s).sa = s.sa := rfl
@[simp] theorem acceptCommand_sb (c : Command) (s : State) : (acceptCommand c s).sb = s.sb := rfl
@[simp] theorem acceptCommand_pta (c : Command) (s : State) : (acceptCommand c s).pta = s.pta := rfl
@[simp] theorem acceptCommand_ptc (c : Command) (s : State) : (acceptCommand c s).ptc = s.ptc := rfl
@[simp] theorem acceptCommand_r (c : Command) (s : State) : (acceptCommand c s).r = s.r := rfl
@[simp] theorem acceptCommand_aV (c : Command) (s : State) : (acceptCommand c s).aV = s.aV := rfl
@[simp] theorem acceptCommand_dV (c : Command) (s : State) : (acceptCommand c s).dV = s.dV := rfl
@[simp] theorem acceptCommand_saV (c : Command) (s : State) : (acceptCommand c s).saV = s.saV := rfl
@[simp] theorem acceptCommand_sbV (c : Command) (s : State) : (acceptCommand c s).sbV = s.sbV := rfl
@[simp] theorem acceptCommand_ptaV (c : Command) (s : State) : (acceptCommand c s).ptaV = s.ptaV := rfl
@[simp] theorem acceptCommand_ptcV (c : Command) (s : State) : (acceptCommand c s).ptcV = s.ptcV := rfl
@[simp] theorem acceptCommand_rV (c : Command) (s : State) : (acceptCommand c s).rV = s.rV := rfl
@[simp] theorem acceptCommand_fault (c : Command) (s : State) : (acceptCommand c s).fault = s.fault := rfl
@[simp] theorem acceptCommand_cause (c : Command) (s : State) : (acceptCommand c s).cause = s.cause := rfl
@[simp] theorem acceptCommand_port (c : Command) (s : State) : (acceptCommand c s).port = .running c := rfl
@[simp] theorem acceptCommand_inputs (c : Command) (s : State) : (acceptCommand c s).inputs = quietPins :: s.inputs := rfl
@[simp] theorem acceptCommand_clears (c : Command) (s : State) : (acceptCommand c s).clears = s.clears := rfl

end Sys2Proof.Machine
end

