-- ==== Sys2Proof/Laws/Ops.lean ====
section
/-! SUPPORT. What each shared operation can do, said once: performing a command (`command`, `systemCommand`,
`illegalCommand`), the operand forms, and the tests on flags. -/

namespace Sys2Proof.Machine

/-! ### Performing a command (R233, R236) -/

/-- Everything an ordinary command can answer. -/
theorem command_next {body : State → Except Cause (State × List Byte)} {s t : State}
    (h : command body s = .next t) :
    (s.fault = true ∧ t = refuseFaulted s) ∨
    (s.fault = false ∧ ∃ u data, body s = .ok (u, data) ∧ t = respond okCode data u) ∨
    (s.fault = false ∧ ∃ c, body s = .error c ∧ t = raiseFault c s) := by
  simp only [command, Host.Outcome.next.injEq] at h
  subst h
  cases hf : s.fault with
  | true => exact .inl ⟨rfl, rfl⟩
  | false =>
    rcases hb : body s with c | ⟨u, data⟩
    · exact .inr (.inr ⟨rfl, c, rfl, rfl⟩)
    · exact .inr (.inl ⟨rfl, u, data, rfl, rfl⟩)

theorem command_faulted {body : State → Except Cause (State × List Byte)} {s : State}
    (h : s.fault = true) : command body s = .next (refuseFaulted s) := by
  simp [command, h]

theorem command_ok {body : State → Except Cause (State × List Byte)} {s u : State} {data : List Byte}
    (hf : s.fault = false) (h : body s = .ok (u, data)) :
    command body s = .next (respond okCode data u) := by
  simp [command, hf, h]

theorem command_error {body : State → Except Cause (State × List Byte)} {s : State} {c : Cause}
    (hf : s.fault = false) (h : body s = .error c) : command body s = .next (raiseFault c s) := by
  simp [command, hf, h]

/-- An ordinary command always answers. -/
theorem command_answers (body : State → Except Cause (State × List Byte)) (s : State) :
    ∃ t, command body s = .next t := ⟨_, rfl⟩

theorem illegalCommand_clear {s : State} (h : s.fault = false) :
    illegalCommand s = .next (raiseFault .illegalCmd s) := command_error h rfl

/-- Everything the dispatch of a command's bytes can do: run the decoded instruction, or answer an illegal command. -/
theorem perform_cases (c : Command) (s : State) :
    (∃ i, decode (commandBytes c) = .ok i ∧ perform c s = exec i s) ∨
    (∃ e, decode (commandBytes c) = .error e ∧ perform c s = illegalCommand s) := by
  unfold perform
  rcases decode (commandBytes c) with e | i
  · exact .inr ⟨e, rfl, rfl⟩
  · exact .inl ⟨i, rfl, rfl⟩

/-- Everything one step can do. -/
theorem step_cases {s t : State} (h : step s = .next t) :
    ((sampledPins s).rst = true ∧ t = resetBlock (consumeInput s)) ∨
    ((sampledPins s).rst = false ∧
      ((∃ c, s.port = .running c ∧ perform c (consumeInput s) = .next t) ∨
       (s.port = .idle ∧ ∃ c, (sampledPins s).cmd = some c ∧ t = { consumeInput s with port := .running c }) ∨
       (s.port = .idle ∧ (sampledPins s).cmd = none ∧ t = consumeInput s) ∨
       (∃ r, s.port = .responding r ∧ (sampledPins s).rspReady = true ∧
          t = { consumeInput s with port := .idle }) ∨
       (∃ r, s.port = .responding r ∧ (sampledPins s).rspReady = false ∧ t = consumeInput s))) := by
  unfold step stepWith at h
  cases hr : (sampledPins s).rst with
  | true =>
    rw [hr] at h
    simp only [if_true, Host.Outcome.next.injEq] at h
    exact .inl ⟨rfl, h.symm⟩
  | false =>
    refine .inr ⟨rfl, ?_⟩
    simp only [hr, Bool.false_eq_true, if_false, consumeInput_port] at h
    rcases hp : s.port with _ | c | r
    · rw [hp] at h
      rcases hc : (sampledPins s).cmd with _ | c
      · rw [hc] at h
        simp only [Host.Outcome.next.injEq] at h
        exact .inr (.inr (.inl ⟨rfl, rfl, h.symm⟩))
      · rw [hc] at h
        simp only [Host.Outcome.next.injEq] at h
        exact .inr (.inl ⟨rfl, c, rfl, h.symm⟩)
    · rw [hp] at h
      exact .inl ⟨c, rfl, h⟩
    · rw [hp] at h
      simp only [Host.Outcome.next.injEq] at h
      cases hq : (sampledPins s).rspReady with
      | true =>
        rw [hq] at h
        exact .inr (.inr (.inr (.inl ⟨r, rfl, rfl, h.symm⟩)))
      | false =>
        rw [hq] at h
        exact .inr (.inr (.inr (.inr ⟨r, rfl, rfl, h.symm⟩)))

/-! ### Each command as an ordinary command over its body, or as a system command -/

theorem exec_nop (s : State) : exec .nop s = command nopBody s := rfl

theorem exec_lrLoadA (x : Scalar) (s : State) : exec (.lrLoadA x) s = command (lrLoadABody x) s := rfl

theorem exec_lrStart (s : State) : exec .lrStart s = command lrStartBody s := rfl

theorem exec_lrRdD0 (s : State) : exec .lrRdD0 s = command lrRdD0Body s := rfl

theorem exec_lrRdD1 (s : State) : exec .lrRdD1 s = command lrRdD1Body s := rfl

theorem exec_neLoadSa (x : Scalar) (s : State) : exec (.neLoadSa x) s = command (neLoadSaBody x) s := rfl

theorem exec_neLoadSb (x : Scalar) (s : State) : exec (.neLoadSb x) s = command (neLoadSbBody x) s := rfl

theorem exec_neLoadPa (pt : List Byte) (s : State) : exec (.neLoadPa pt) s = command (neLoadPaBody pt) s := rfl

theorem exec_neLoadPc (pt : List Byte) (s : State) : exec (.neLoadPc pt) s = command (neLoadPcBody pt) s := rfl

theorem exec_neStart (s : State) : exec .neStart s = command neStartBody s := rfl

theorem exec_neRdR (s : State) : exec .neRdR s = command neRdRBody s := rfl

theorem exec_rdStatus (s : State) : exec .rdStatus s = .next (respond okCode (statusBytes s) s) := rfl

theorem exec_clear (s : State) : exec .clear s = .next (respond okCode [] (returnToReset s)) := rfl

/-! ### Operands and tests -/

theorem scalarOperand_ok {x : Scalar} (h : x.toNat < Config.ell) : scalarOperand x = .ok x := if_pos h

theorem scalarOperand_error {x : Scalar} (h : Config.ell ≤ x.toNat) :
    scalarOperand x = .error .noncanonical := if_neg (Nat.not_lt.mpr h)

/-- A scalar operand that is accepted is the payload itself, and canonical. -/
theorem scalarOperand_eq_ok {x v : Scalar} (h : scalarOperand x = .ok v) :
    v = x ∧ x.toNat < Config.ell := by
  unfold scalarOperand at h
  split at h
  · exact ⟨(Except.ok.inj h).symm, by assumption⟩
  · cases h

theorem pointOperand_ok {pt : List Byte} {p : Point} (h : Config.ptDecode pt = some p) :
    pointOperand pt = .ok p := by
  unfold pointOperand
  rw [h]

theorem pointOperand_error {pt : List Byte} (h : Config.ptDecode pt = none) :
    pointOperand pt = .error .pointInvalid := by
  unfold pointOperand
  rw [h]

theorem assertElse_true {b : Bool} {c : Cause} (h : b = true) : assertElse b c = .ok () := if_pos h

theorem assertElse_false {b : Bool} {c : Cause} (h : b = false) : assertElse b c = .error c := by
  simp [assertElse, h]

/-- The operand test of NE_START holds exactly when all four flags are 1. -/
theorem evaluatorOperandsValid_iff {s : State} :
    evaluatorOperandsValid s = true ↔
      s.saV = true ∧ s.sbV = true ∧ s.ptaV = true ∧ s.ptcV = true := by
  simp [evaluatorOperandsValid, and_assoc]

/-- `to_si` of an integer that fits is its sign and magnitude. -/
theorem toSi_ok {x : Int} (h : x.natAbs < 2 ^ 129) :
    toSi x = .ok ⟨decide (x < 0), BitVec.ofNat 129 x.natAbs⟩ := if_pos h

theorem toSi_error {x : Int} (h : 2 ^ 129 ≤ x.natAbs) : toSi x = .error .invariant :=
  if_neg (Nat.not_lt.mpr h)

/-- A code below 16 keeps its number as a response code. -/
theorem responseCode_toNat (c : BitVec 4) : (responseCode c).toNat = c.toNat := by
  have := c.isLt
  simp only [responseCode, BitVec.toNat_setWidth]
  omega

end Sys2Proof.Machine
end

