-- ==== Sys2Proof/Laws/PerInstr.lean ====
section
/-! SUPPORT. Statements made of each instruction as syntax, one lemma per constructor: the family `Form`. -/

namespace Sys2Proof.Laws

/-- R82, R90: an instruction's bytes begin with its opcode byte, from which the decoder reads its opcode; and a
well-formed instruction has exactly the length its opcode's format requires. -/
def Form.Statement (i : Instr) : Prop :=
  (encode i).head? = some (opcodeByte (instrOpcode i)) ∧
  opcodeOfByte (opcodeByte (instrOpcode i)) = some (instrOpcode i) ∧
  (wellFormed i = true → (encode i).length = 1 + payloadLength (opcodeFormat (instrOpcode i)))

theorem Form.of_wellFormed (i : Instr) : Form.Statement i := by
  refine ⟨rfl, opcodeOfByte_opcodeByte _, fun h => ?_⟩
  rw [encode, List.length_cons, instrPayload_length h, Nat.add_comm]

theorem Form.nop : Form.Statement .nop := Form.of_wellFormed _

theorem Form.lrLoadA (x : Scalar) : Form.Statement (.lrLoadA x) := Form.of_wellFormed _

theorem Form.lrStart : Form.Statement .lrStart := Form.of_wellFormed _

theorem Form.lrRdD0 : Form.Statement .lrRdD0 := Form.of_wellFormed _

theorem Form.lrRdD1 : Form.Statement .lrRdD1 := Form.of_wellFormed _

theorem Form.neLoadSa (x : Scalar) : Form.Statement (.neLoadSa x) := Form.of_wellFormed _

theorem Form.neLoadSb (x : Scalar) : Form.Statement (.neLoadSb x) := Form.of_wellFormed _

theorem Form.neLoadPa (pt : List Byte) : Form.Statement (.neLoadPa pt) := Form.of_wellFormed _

theorem Form.neLoadPc (pt : List Byte) : Form.Statement (.neLoadPc pt) := Form.of_wellFormed _

theorem Form.neStart : Form.Statement .neStart := Form.of_wellFormed _

theorem Form.neRdR : Form.Statement .neRdR := Form.of_wellFormed _

theorem Form.rdStatus : Form.Statement .rdStatus := Form.of_wellFormed _

theorem Form.clear : Form.Statement .clear := Form.of_wellFormed _

end Sys2Proof.Laws
end

