-- ==== Sys2Proof/Laws/Prime.lean ====
section
/-! SUPPORT. ELL is prime (spec/00_scope.md rule R7): Lucas certificates, one lemma per prime in the chain. Claims that
cancel a factor modulo ELL (spec/43_naf_evaluator.md rule R198) cite `Config.ell_prime`. -/

namespace Sys2Proof

/-- `a ^ e % n` by repeated squaring, for certificates; the first argument bounds the bits of `e`. -/
def powModBits (n : Nat) : Nat → Nat → Nat → Nat
  | 0, _, _ => 1 % n
  | bits + 1, a, e =>
    let r := powModBits n bits (a * a % n) (e / 2)
    if e % 2 = 1 then r * a % n else r

theorem powModBits_eq (n bits a e : Nat) (h : e < 2 ^ bits) : powModBits n bits a e = a ^ e % n := by
  induction bits generalizing a e with
  | zero =>
    have : e = 0 := by simpa using h
    subst this
    simp [powModBits]
  | succ bits ih =>
    have h2 : e / 2 < 2 ^ bits := by rw [Nat.pow_succ] at h; omega
    have he : a ^ e = (a * a) ^ (e / 2) * a ^ (e % 2) := by
      rw [← pow_two, ← pow_mul, ← pow_add, Nat.div_add_mod]
    rw [powModBits, ih _ _ h2, ← Nat.pow_mod, he]
    rcases Nat.mod_two_eq_zero_or_one e with h0 | h1
    · simp [h0]
    · simp [h1, Nat.mod_mul_mod]

/-- A Lucas certificate: the factors of `n − 1`, all prime, and a base of order `n − 1`. -/
theorem prime_of_certificate (n a bits : Nat) (fs : List Nat) (hn : 1 < n) (hp : ∀ q ∈ fs, q.Prime)
    (hprod : fs.prod = n - 1) (hb : n - 1 < 2 ^ bits)
    (hc : (powModBits n bits a (n - 1) == 1 && fs.all fun q => powModBits n bits a ((n - 1) / q) != 1) = true) :
    n.Prime := by
  rw [Bool.and_eq_true, beq_iff_eq, List.all_eq_true] at hc
  obtain ⟨h1, h2⟩ := hc
  rw [powModBits_eq n bits a _ hb] at h1
  refine lucas_primality n (a : ZMod n) ?_ ?_
  · have : ((a ^ (n - 1) : Nat) : ZMod n) = ((1 : Nat) : ZMod n) := by
      rw [ZMod.natCast_eq_natCast_iff]
      unfold Nat.ModEq
      rw [h1, Nat.mod_eq_of_lt hn]
    simpa using this
  · intro q hq hqd h
    have hq' : q ∈ fs := by
      rw [← hprod] at hqd
      obtain ⟨r, hr, hd⟩ := (Prime.dvd_prod_iff hq.prime).mp hqd
      rwa [(Nat.prime_dvd_prime_iff_eq hq (hp r hr)).mp hd]
    have h3 := h2 q hq'
    rw [powModBits_eq n bits a _ (Nat.lt_of_le_of_lt (Nat.div_le_self _ _) hb), bne_iff_ne] at h3
    apply h3
    have : ((a ^ ((n - 1) / q) : Nat) : ZMod n) = ((1 : Nat) : ZMod n) := by simpa using h
    rw [ZMod.natCast_eq_natCast_iff] at this
    unfold Nat.ModEq at this
    rw [this, Nat.mod_eq_of_lt hn]

theorem prime_3044861653679985063343 : Nat.Prime 3044861653679985063343 :=
  prime_of_certificate _ 5 80 [2, 3, 11, 30703, 82163, 132667, 137849] (by norm_num)
    (by intro q hq; fin_cases hq <;> norm_num) (by norm_num) (by norm_num) (by decide +kernel)

theorem prime_198211423230930754013084525763697 : Nat.Prime 198211423230930754013084525763697 :=
  prime_of_certificate _ 5 120 [2, 2, 2, 2, 3, 23, 58964693, 3044861653679985063343] (by norm_num)
    (by intro q hq; fin_cases hq <;> first | exact prime_3044861653679985063343 | norm_num)
    (by norm_num) (by norm_num) (by decide +kernel)

theorem prime_1257559732178653 : Nat.Prime 1257559732178653 :=
  prime_of_certificate _ 2 60 [2, 2, 3, 7, 23, 531581, 1224481] (by norm_num)
    (by intro q hq; fin_cases hq <;> norm_num) (by norm_num) (by norm_num) (by decide +kernel)

theorem prime_4434155615661930479 : Nat.Prime 4434155615661930479 :=
  prime_of_certificate _ 17 70 [2, 41, 43, 1257559732178653] (by norm_num)
    (by intro q hq; fin_cases hq <;> first | exact prime_1257559732178653 | norm_num)
    (by norm_num) (by norm_num) (by decide +kernel)

theorem prime_172054593956031949258510691 : Nat.Prime 172054593956031949258510691 :=
  prime_of_certificate _ 2 90 [2, 5, 1361, 2851, 4434155615661930479] (by norm_num)
    (by intro q hq; fin_cases hq <;> first | exact prime_4434155615661930479 | norm_num)
    (by norm_num) (by norm_num) (by decide +kernel)

theorem prime_292386187 : Nat.Prime 292386187 :=
  prime_of_certificate _ 2 30 [2, 3, 3, 3, 3, 307, 5879] (by norm_num)
    (by intro q hq; fin_cases hq <;> norm_num) (by norm_num) (by norm_num) (by decide +kernel)

theorem prime_213441916511 : Nat.Prime 213441916511 :=
  prime_of_certificate _ 13 40 [2, 5, 73, 292386187] (by norm_num)
    (by intro q hq; fin_cases hq <;> first | exact prime_292386187 | norm_num) (by norm_num) (by norm_num) (by decide +kernel)

theorem prime_19757330305831588566944191468367130476339 :
    Nat.Prime 19757330305831588566944191468367130476339 :=
  prime_of_certificate _ 2 140 [2, 269, 213441916511, 172054593956031949258510691] (by norm_num)
    (by
      intro q hq
      fin_cases hq <;>
        first | exact prime_213441916511 | exact prime_172054593956031949258510691 | norm_num)
    (by norm_num) (by norm_num) (by decide +kernel)

theorem prime_276602624281642239937218680557139826668747 :
    Nat.Prime 276602624281642239937218680557139826668747 :=
  prime_of_certificate _ 2 140 [2, 7, 19757330305831588566944191468367130476339] (by norm_num)
    (by
      intro q hq
      fin_cases hq <;> first | exact prime_19757330305831588566944191468367130476339 | norm_num)
    (by norm_num) (by norm_num) (by decide +kernel)

/-- ELL is prime (R7). -/
theorem Config.ell_prime : Config.ell.Prime :=
  prime_of_certificate _ 2 256
    [2, 2, 3, 11, 198211423230930754013084525763697, 276602624281642239937218680557139826668747]
    (by norm_num [Config.ell])
    (by
      intro q hq
      fin_cases hq <;>
        first
        | exact prime_198211423230930754013084525763697
        | exact prime_276602624281642239937218680557139826668747
        | norm_num)
    (by norm_num [Config.ell]) (by norm_num [Config.ell]) (by decide +kernel)

end Sys2Proof
end

