-- ==== Sys2Proof/Laws/Reducer.lean ====
section
/-! SUPPORT. What one pass of the reducer does, said once: the bounds of the rounded quotient, and the norm, inner
product and determinant of the candidate row. -/

namespace Sys2Proof.Machine

/-- The rounded quotient leaves a remainder in `[−n/2, n/2)`. -/
theorem nearest_bounds (p n : Int) (hn : 0 < n) :
    -n ≤ 2 * (p - nearest p n * n) ∧ 2 * (p - nearest p n * n) < n := by
  unfold nearest
  have h1 := Int.emod_add_mul_ediv (2 * p + n) (2 * n)
  have h2 := Int.emod_nonneg (2 * p + n) (show 2 * n ≠ 0 by omega)
  have h3 := Int.emod_lt_of_pos (2 * p + n) (show 0 < 2 * n by omega)
  constructor <;> nlinarith

theorem rowNorm_nonneg (v : Row) : 0 ≤ rowNorm v := by
  unfold rowNorm
  nlinarith [sq_nonneg v.x, sq_nonneg v.y]

theorem rowNorm_reducedRow (u v : Row) :
    rowNorm (reducedRow u v) = rowNorm u - 2 * nearest (rowInner u v) (rowNorm v) * rowInner u v
      + nearest (rowInner u v) (rowNorm v) ^ 2 * rowNorm v := by
  simp only [reducedRow]
  generalize nearest (rowInner u v) (rowNorm v) = q
  simp only [rowNorm, rowInner]
  ring

theorem rowInner_reducedRow (u v : Row) :
    rowInner (reducedRow u v) v = rowInner u v - nearest (rowInner u v) (rowNorm v) * rowNorm v := by
  simp only [reducedRow]
  generalize nearest (rowInner u v) (rowNorm v) = q
  simp only [rowNorm, rowInner]
  ring

theorem det_reducedRow (u v : Row) :
    (reducedRow u v).x * v.y - (reducedRow u v).y * v.x = u.x * v.y - u.y * v.x := by
  simp only [reducedRow]
  ring

/-- The identity of Lagrange for two rows. -/
theorem rowNorm_mul_sub_inner_sq (u v : Row) :
    rowNorm u * rowNorm v - rowInner u v ^ 2 = (u.x * v.y - u.y * v.x) ^ 2 := by
  simp only [rowNorm, rowInner]
  ring

end Sys2Proof.Machine
end

