-- ==== Sys2Proof/Laws/ScalarRing.lean ====
section
/-! SUPPORT. What one digit of the signed-digit expansion is, digit arrays element by element, and cutting a
little-endian byte string. -/

namespace Sys2Proof.Machine

theorem two_pow_halves (w : Nat) (hw : 2 ≤ w) : (2:Int)^w = 2 * 2^(w-1) ∧ (2:Int) ≤ 2^(w-1) := by
  obtain ⟨v, rfl⟩ : ∃ v, w = v + 2 := ⟨w-2, by omega⟩
  constructor
  · rw [show v + 2 - 1 = v + 1 by omega]; ring
  · rw [show v + 2 - 1 = v + 1 by omega, pow_succ]; have : (1:Int) ≤ 2^v := one_le_pow₀ (by norm_num); omega

/-- A digit is zero on an even value; else it is odd, short, and leaves a multiple of `2^w`. -/
theorem nafDigit_cases (w : Nat) (k : Int) (hw : 2 ≤ w) (hk : 0 ≤ k) :
    (nafDigit w k = 0 ∧ k % 2 = 0) ∨
    (nafDigit w k % 2 = 1 ∧ (nafDigit w k).natAbs < 2^(w-1) ∧ (2:Int)^w ∣ k - nafDigit w k ∧ nafDigit w k ≤ k) := by
  obtain ⟨h1, h2⟩ := two_pow_halves w hw
  unfold nafDigit
  split
  · right
    rename_i hodd
    have e1 := Int.emod_nonneg k (show (2:Int)^w ≠ 0 by positivity)
    have e2 := Int.emod_lt_of_pos k (show (0:Int) < 2^w by positivity)
    have e3 := Int.emod_add_mul_ediv k (2^w)
    have hle : k % 2^w ≤ k := by
      have : 0 ≤ 2^w * (k / 2^w) := mul_nonneg (by positivity) (Int.ediv_nonneg hk (by positivity))
      omega
    have hp : (2:Int)^w % 2 = 0 := by rw [h1]; omega
    have hd2 : (k % 2^w) % 2 = 1 := by
      rw [Int.emod_emod_of_dvd k (Int.dvd_of_emod_eq_zero hp)]; exact hodd
    have hc : (((2:Nat)^(w-1) : Nat) : Int) = 2^(w-1) := by push_cast; rfl
    have hpp : (2:Int)^(w-1) % 2 = 0 := by
      obtain ⟨v, rfl⟩ : ∃ v, w = v + 2 := ⟨w-2, by omega⟩
      rw [show v + 2 - 1 = v + 1 by omega, pow_succ]; omega
    simp only
    split
    · refine ⟨by omega, by omega, ⟨k / 2^w + 1, by linarith⟩, by omega⟩
    · refine ⟨by omega, by omega, ⟨k / 2^w, by linarith⟩, by omega⟩
  · left; exact ⟨rfl, by omega⟩

theorem digitAt_cons_zero (d : Int) (ds : List Int) : digitAt (d :: ds) 0 = d := rfl

theorem digitAt_cons_succ (d : Int) (ds : List Int) (j : Nat) : digitAt (d :: ds) (j + 1) = digitAt ds j := rfl

/-- A SignedInteger's magnitude is below ELL, so no reduction takes place. -/
theorem siToScalar_eq (d : SignedInt) : siToScalar d = d.mag.toNat :=
  Nat.mod_eq_of_lt (d.mag.isLt.trans (by norm_num [Config.ell]))

/-- The low and the high bytes of a little-endian string. -/
theorem toLe_take_drop (n m x : Nat) :
    (toLe (n + m) x).take n = toLe n x ∧ (toLe (n + m) x).drop n = toLe m (x / 256 ^ n) := by
  induction n generalizing x with
  | zero => simp [toLe]
  | succ n ih =>
    obtain ⟨a, b⟩ := ih (x / 256)
    rw [show n + 1 + m = (n + m) + 1 by omega, toLe, List.take_succ_cons, List.drop_succ_cons, a, b, toLe,
      Nat.div_div_eq_div_mul, ← Nat.pow_succ']
    exact ⟨rfl, rfl⟩

end Sys2Proof.Machine
end

