-- ==== Sys2Proof/Machine/Ed25519.lean ====
section
/-! DEFINITION. The reference instantiation E of the group parameters (spec/93_implementation_defined.md G1, named by
spec/00_scope.md rule R8): the Ed25519 group by its affine formulas, its base point and its point encoding. The
machine does not use it, its group is arbitrary (decision D12); it runs the Ed25519 rows of
spec/95_test_vectors.md. No law of the group is proved here (log 15). -/

namespace Sys2Proof.Machine

/-- The field prime `p = 2^255 − 19`. -/
def edPrime : Nat := 57896044618658097711785492504343953926634992332820282019728792003956564819949

/-- The curve constant `d`. -/
def edD : Nat := 37095705934669439343138083508754565189542113879843219016388785533085940283555

/-- A pair of field elements; the points of E are those on the curve. -/
structure EdPoint where
  x : Nat
  y : Nat
deriving DecidableEq, Repr

/-- Product in the field. -/
def edMul (a b : Nat) : Nat := a * b % edPrime

/-- Difference in the field. -/
def edSub (a b : Nat) : Nat := (a + (edPrime - b % edPrime)) % edPrime

/-- `a^e` in the field, from the `n` low bits of `e`, low bit first; `acc` is the product so far. -/
def edPowBits : Nat → Nat → Nat → Nat → Nat
  | 0, _, _, acc => acc
  | n + 1, a, e, acc => edPowBits n (edMul a a) (e / 2) (if e % 2 = 1 then edMul acc a else acc)

/-- `a^e` in the field, `e < 2^255`. -/
def edPow (a e : Nat) : Nat := edPowBits 255 (a % edPrime) e 1

/-- The inverse in the field. -/
def edInv (a : Nat) : Nat := edPow a (edPrime - 2)

/-- `gadd` of E. -/
def edAdd (P Q : EdPoint) : EdPoint :=
  match P, Q with
  | ⟨x1, y1⟩, ⟨x2, y2⟩ =>
    let k := edMul edD (edMul (edMul x1 x2) (edMul y1 y2))
    ⟨edMul (edMul x1 y2 + edMul x2 y1) (edInv (1 + k)), edMul (edMul y1 y2 + edMul x1 x2) (edInv (edSub 1 k))⟩

/-- `gneg` of E. -/
def edNeg (P : EdPoint) : EdPoint := ⟨edSub 0 P.x, P.y⟩

/-- `ident` of E. -/
def edIdent : EdPoint := ⟨0, 1⟩

/-- The base point `B` of E. -/
def edBase : EdPoint :=
  ⟨15112221349535400772501151409588531511454012693041857206046113283949847762202,
   46316835694926478169428394003475163141307993866256225615783033603165251855960⟩

/-- `[k]P` for the `n` low bits of `k`, by doubling and adding. -/
def edSmulBits : Nat → Nat → EdPoint → EdPoint
  | 0, _, _ => edIdent
  | n + 1, k, P =>
    let Q := edSmulBits n (k / 2) P
    let D := edAdd Q Q
    if k % 2 = 1 then edAdd D P else D

/-- `[k]P` of E for an integer `k`. -/
def edSmul (k : Int) (P : EdPoint) : EdPoint :=
  let Q := edSmulBits (k.natAbs.log2 + 1) k.natAbs P
  if k < 0 then edNeg Q else Q

/-- The operations of E. -/
def edOps : GroupOps EdPoint where
  ident := edIdent
  gadd := edAdd
  gneg := edNeg
  gdouble P := edAdd P P
  smul := edSmul
  base := edBase

/-- `−x² + y² = 1 + d·x²·y²`. -/
def edOnCurve (P : EdPoint) : Bool :=
  edSub (edMul P.y P.y) (edMul P.x P.x) ==
    (1 + edMul edD (edMul (edMul P.x P.x) (edMul P.y P.y))) % edPrime

/-- `pt_encode` of E: `y + 2^255·(x mod 2)`, 32 little-endian bytes. -/
def edEncode (P : EdPoint) : List Byte := toLe 32 (P.y + 2 ^ 255 * (P.x % 2))

/-- A square root of `a` in the field, if it has one (`p mod 8 = 5`). -/
def edSqrt (a : Nat) : Option Nat :=
  let r := edPow a ((edPrime + 3) / 8)
  let t := edMul r (edPow 2 ((edPrime - 1) / 4))
  if edMul r r = a % edPrime then some r
  else if edMul t t = a % edPrime then some t
  else none

/-- `pt_decode` of E. -/
def edDecode (buf : List Byte) : Option EdPoint :=
  let s := fromLe buf / 2 ^ 255
  let y := fromLe buf % 2 ^ 255
  if buf.length = 32 ∧ y < edPrime then
    let y2 := edMul y y
    match edSqrt (edMul (edSub y2 1) (edInv (1 + edMul edD y2))) with
    | none => none
    | some r =>
      if r = 0 ∧ s = 1 then none
      else if r % 2 = s then some ⟨r, y⟩
      else some ⟨edSub 0 r, y⟩
  else none

end Sys2Proof.Machine
end

