-- ==== Sys2Proof/Tests/Slice0.lean ====
section
/-! SUPPORT. The model's own tests: ill-formed terms that WellFormed refuses, command words written out from
spec/30_encoding.md, single steps and algorithm results from spec/95_test_vectors.md, and for every statement with
hypotheses a concrete input that meets them. -/

namespace Sys2Proof.Tests

open Sys2Proof Sys2Proof.Machine

/-! ### Helpers -/

/-- The state after an outcome that goes on; the reset state after one that stops. -/
def nextOf : Outcome → State
  | .next t => t
  | .fault _ => State.reset
  | .refused _ => State.reset

/-- The response on offer after an outcome. -/
def responseOf (o : Outcome) : Option (List Byte) := responsePin (nextOf o)

/-- A block that holds the valid operand `x` in `A` and nothing else. -/
def withA (x : Scalar) : State := { State.reset with a := x, aV := true }

/-- A block that holds a valid decomposition. -/
def withD (x y : SignedInt) : State := { State.reset with d0 := x, d1 := y, dV := true }

/-- A block with all four evaluator operands loaded, the points being the identity. -/
def loaded (a b : Scalar) : State :=
  { State.reset with sa := a, saV := true, sb := b, sbV := true, pta := Config.group.ident, ptaV := true,
                     ptc := Config.group.ident, ptcV := true }

/-- A block that has faulted with a cause. -/
def faultedWith (c : Cause) : State := { State.reset with fault := true, cause := causeCode c }

/-- `ELL − 1`, the largest canonical scalar, as a payload. -/
def ellPred : Scalar := BitVec.ofNat 256 (Config.ell - 1)

/-- `ELL`, the smallest scalar that is refused. -/
def ellScalar : Scalar := BitVec.ofNat 256 Config.ell

/-- An encoded point that `pt_decode` accepts. -/
def identBytes : List Byte := Config.ptEncode Config.group.ident

/-- Payload bytes that `pt_decode` refuses: there are none of them. -/
theorem ptDecode_nil : Config.ptDecode [] = none := by
  cases h : Config.ptDecode [] with
  | none => rfl
  | some P => exact absurd (Config.ptDecode_length h) (Nat.ne_of_lt Config.pointBytes_pos)

/-! ### WellFormed: ill-formed terms are refused -/

theorem test_wellFormed_refuses_empty_pa : wellFormed (.neLoadPa []) = false := by
  have h := Config.pointBytes_pos
  simp [wellFormed]
  omega

theorem test_wellFormed_refuses_long_pc :
    wellFormed (.neLoadPc (List.replicate (Config.pointBytes + 1) 0x00#8)) = false := by
  simp [wellFormed]

/-! ### Decoding: words written out from R83 to R85 and the table of R90 -/

theorem test_decode_nop : decodeTableWord 8 0x00 = some .nop := by decide
theorem test_decode_lrStart : decodeTableWord 8 0x02 = some .lrStart := by decide
theorem test_decode_lrRdD0 : decodeTableWord 8 0x03 = some .lrRdD0 := by decide
theorem test_decode_lrRdD1 : decodeTableWord 8 0x04 = some .lrRdD1 := by decide
theorem test_decode_neStart : decodeTableWord 8 0x14 = some .neStart := by decide
theorem test_decode_neRdR : decodeTableWord 8 0x15 = some .neRdR := by decide
theorem test_decode_rdStatus : decodeTableWord 8 0x20 = some .rdStatus := by decide
theorem test_decode_clear : decodeTableWord 8 0x3f = some .clear := by decide

/-- R84: `w = s·2^8 + op`, here `s = 2^255 + 5`. -/
theorem test_decode_lrLoadA :
    decodeTableWord 264 (((2 ^ 255 + 5) * 2 ^ 8) + 0x01) = some (.lrLoadA (BitVec.ofNat 256 (2 ^ 255 + 5))) := by
  decide +kernel

theorem test_decode_neLoadSa : decodeTableWord 264 0x0310 = some (.neLoadSa 3#256) := by decide +kernel

theorem test_decode_neLoadSb : decodeTableWord 264 0x010011 = some (.neLoadSb 256#256) := by decide +kernel

/-- R85: the payload is handed on byte by byte, whatever `POINT_BYTES` is. -/
theorem test_decode_neLoadPa (pt : List Byte) (h : pt.length = Config.pointBytes) :
    decode (0x12#8 :: pt) = .ok (.neLoadPa pt) := by
  simp [decode, opcodeOfByte, opcodeFormat, payloadLength, h, buildInstr]

theorem test_decode_neLoadPc (pt : List Byte) (h : pt.length = Config.pointBytes) :
    decode (0x13#8 :: pt) = .ok (.neLoadPc pt) := by
  simp [decode, opcodeOfByte, opcodeFormat, payloadLength, h, buildInstr]

/-- The bare opcode word of a format-P row stands for a payload of zero bytes. -/
theorem test_decode_point_words :
    decodeTableWord 8 0x12 = some (.neLoadPa (List.replicate Config.pointBytes 0x00#8)) ∧
    decodeTableWord 8 0x13 = some (.neLoadPc (List.replicate Config.pointBytes 0x00#8)) := by
  constructor <;>
    simp [decodeTableWord, commandOfWord, toLe, opcodeOfByte, commandBytes, padPayload, decode, opcodeFormat,
      payloadLength, buildInstr, Except.toOption]

/-- Step runs the word placed for it: the block answers NOP with OK, LR_START without an operand with cause 4. -/
theorem test_withFetchWord :
    responseOf (step (State.reset.withFetchWord 8 0x00)) = some [0x00#8] ∧
    responseOf (step (State.reset.withFetchWord 8 0x02)) = some [0x04#8] := by decide +kernel

/-! ### System commands (section 6: F8, F11; P3) -/

/-- F11. -/
theorem test_nop_answers_ok : responseOf (exec .nop State.reset) = some [0x00#8] := by decide +kernel

/-- P3, third line: NOP is refused in the faulted state with the recorded cause. -/
theorem test_nop_refused : responseOf (exec .nop (faultedWith .resultInvalid)) = some [0x05#8] := by
  decide +kernel

/-- F5: the four bytes of STATUS with SA_V, SB_V, PTA_V, FAULT and cause 4. -/
theorem test_rdStatus_bytes :
    responseOf (exec .rdStatus
      { State.reset with saV := true, sbV := true, ptaV := true, fault := true, cause := 0x4#4 }) =
      some [0x00#8, 0x9c#8, 0x04#8, 0x00#8, 0x00#8] := by decide +kernel

/-- P5, last line: STATUS 0x000005fd. -/
theorem test_rdStatus_all_but_dV :
    responseOf (exec .rdStatus
      { State.reset with aV := true, saV := true, sbV := true, ptaV := true, ptcV := true, rV := true,
                         fault := true, cause := 0x5#4 }) =
      some [0x00#8, 0xfd#8, 0x05#8, 0x00#8, 0x00#8] := by decide +kernel

/-- F8: the well-formed CLEAR works in the faulted state. -/
theorem test_clear_ends_fault :
    responseOf (exec .clear (faultedWith .illegalCmd)) = some [0x00#8] ∧
    statusWord (nextOf (exec .clear (faultedWith .illegalCmd))) = 0x00000000#32 := by decide +kernel

/-- F8: the ill-formed CLEAR does not. -/
theorem test_clear_wrong_length :
    responseOf (perform ⟨0x3f#8, [0x00#8]⟩ (faultedWith .illegalCmd)) = some [0x01#8] ∧
    (nextOf (perform ⟨0x3f#8, [0x00#8]⟩ (faultedWith .illegalCmd))).fault = true := by decide +kernel

/-- F2, F3: a reserved opcode, and a right opcode with a wrong length. -/
theorem test_illegal_commands :
    responseOf (perform ⟨0x05#8, []⟩ State.reset) = some [0x01#8] ∧
    responseOf (perform ⟨0x02#8, [0x00#8]⟩ State.reset) = some [0x01#8] := by decide +kernel

/-! ### Reducer commands (section 2; F1, F4, F9; P1) -/

/-- P1, first line, at the largest canonical scalar. -/
theorem test_lrLoadA_loads :
    responseOf (exec (.lrLoadA ellPred) State.reset) = some [0x00#8] ∧
    (nextOf (exec (.lrLoadA ellPred) State.reset)).a = ellPred ∧
    statusWord (nextOf (exec (.lrLoadA ellPred) State.reset)) = 0x00000001#32 := by decide +kernel

/-- F1: ELL is refused, and A_V stays 0. -/
theorem test_lrLoadA_refuses :
    responseOf (exec (.lrLoadA ellScalar) State.reset) = some [0x02#8] ∧
    statusWord (nextOf (exec (.lrLoadA ellScalar) State.reset)) = 0x00000280#32 := by decide +kernel

/-- P1 (L5): `(1, −1)` for `ELL − 1`. -/
theorem test_lrStart_stores :
    (nextOf (exec .lrStart (withA ellPred))).d0 = ⟨false, 1#129⟩ ∧
    (nextOf (exec .lrStart (withA ellPred))).d1 = ⟨true, 1#129⟩ ∧
    statusWord (nextOf (exec .lrStart (withA ellPred))) = 0x00000003#32 := by decide +kernel

/-- F4. -/
theorem test_lrStart_operand_missing : responseOf (exec .lrStart State.reset) = some [0x04#8] := by decide +kernel

/-- L8, column LR_RD_D0. -/
theorem test_lrRdD0_bytes :
    responseOf (exec .lrRdD0 (withD ⟨false, 27742317777372353535851937790883648493#129⟩ ⟨true, 1#129⟩)) =
      some [0x00#8, 0xed#8, 0xd3#8, 0xf5#8, 0x5c#8, 0x1a#8, 0x63#8, 0x12#8, 0x58#8, 0xd6#8, 0x9c#8, 0xf7#8, 0xa2#8,
        0xde#8, 0xf9#8, 0xde#8, 0x14#8, 0x00#8] := by decide +kernel

/-- P3, first line. -/
theorem test_lrRdD0_invalid : responseOf (exec .lrRdD0 State.reset) = some [0x05#8] := by decide +kernel

/-- L8, column LR_RD_D1: `−2^125` has bit 5 of byte 15 and bit 1 of byte 16 set. -/
theorem test_lrRdD1_bytes :
    responseOf (exec .lrRdD1 (withD ⟨false, 1#129⟩ ⟨true, BitVec.twoPow 129 125⟩)) =
      some (0x00#8 :: (List.replicate 15 0x00#8 ++ [0x20#8, 0x02#8])) := by decide +kernel

/-- F9: LR_LOAD_A clears D_V, so the read faults. -/
theorem test_lrRdD1_after_load :
    responseOf (exec .lrRdD1 (nextOf (exec (.lrLoadA 2#256) (withD ⟨false, 1#129⟩ ⟨false, 1#129⟩)))) =
      some [0x05#8] := by decide +kernel

/-- L1, L2, L7 of section 2. -/
theorem test_fsv_first_pass : fsv 0 = ⟨0, 1⟩ ∧ fsv 1 = ⟨1, 1⟩ ∧ fsv (2 ^ 126) = ⟨2 ^ 126, 1⟩ := by decide +kernel

/-- L8, L11, L12 of section 2: two passes, all sign combinations. -/
theorem test_fsv_second_pass :
    fsv (2 ^ 127) = ⟨27742317777372353535851937790883648493, -2 ^ 125⟩ ∧
    fsv ((Config.ell - 1) / 2) = ⟨1, -2⟩ ∧ fsv ((Config.ell + 1) / 2) = ⟨-1, -2⟩ := by decide +kernel

/-- L15 of section 2 (H3 by its payload): 59 passes, both components negative. -/
theorem test_fsv_generic :
    fsv 0x0ee0c42f9036a2f9ea3b358346138e7dd70541a0ee67d8147676b4645b73d86e =
      ⟨-30163337750585078366454036242107679967, -45583588935695251805873238769659267994⟩ := by decide +kernel

/-! ### Evaluator commands (sections 3 to 5; F5, F7, F10; P2) -/

/-- P2, second line. -/
theorem test_neLoadSa_loads :
    (nextOf (exec (.neLoadSa 1#256) State.reset)).sa = 1#256 ∧
    statusWord (nextOf (exec (.neLoadSa 1#256) State.reset)) = 0x00000004#32 := by decide +kernel

/-- F7: `2^256 − 1` is refused. -/
theorem test_neLoadSa_refuses : responseOf (exec (.neLoadSa (BitVec.allOnes 256)) State.reset) = some [0x02#8] := by
  decide +kernel

/-- P2, fourth line. -/
theorem test_neLoadSb_loads :
    (nextOf (exec (.neLoadSb ellPred) State.reset)).sb = ellPred ∧
    statusWord (nextOf (exec (.neLoadSb ellPred) State.reset)) = 0x00000008#32 := by decide +kernel

/-- F10: a load clears R_V, so STATUS 0x7f becomes 0x3f. -/
theorem test_neLoadSb_clears_rV :
    statusWord (nextOf (exec (.neLoadSb 2#256) { loaded 1#256 1#256 with aV := true, dV := true, rV := true })) =
      0x0000003f#32 := by decide +kernel

/-- P2, third line: the decoded point is loaded and PTA_V set. -/
theorem test_neLoadPa_loads :
    exec (.neLoadPa identBytes) State.reset =
      .next { State.reset with pta := Config.group.ident, ptaV := true, port := .responding [0x00#8] } := by
  rw [exec_neLoadPa, command_ok (u := writePTA Config.group.ident State.reset) (data := []) rfl]
  · rfl
  · rw [neLoadPaBody, identBytes, pointOperand_ok (Config.ptDecode_ptEncode Config.group.ident)]

/-- F6, F6b: a refused point. -/
theorem test_neLoadPa_refuses : responseOf (exec (.neLoadPa []) State.reset) = some [0x03#8] := by
  rw [exec_neLoadPa, command_error (c := .pointInvalid) rfl]
  · rfl
  · rw [neLoadPaBody, pointOperand_error ptDecode_nil]

/-- P2, fifth line: the decoded point is loaded and PTC_V set. -/
theorem test_neLoadPc_loads :
    exec (.neLoadPc identBytes) State.reset =
      .next { State.reset with ptc := Config.group.ident, ptcV := true, port := .responding [0x00#8] } := by
  rw [exec_neLoadPc, command_ok (u := writePTC Config.group.ident State.reset) (data := []) rfl]
  · rfl
  · rw [neLoadPcBody, identBytes, pointOperand_ok (Config.ptDecode_ptEncode Config.group.ident)]

/-- F6, F6b: a refused point. -/
theorem test_neLoadPc_refuses : responseOf (exec (.neLoadPc []) State.reset) = some [0x03#8] := by
  rw [exec_neLoadPc, command_error (c := .pointInvalid) rfl]
  · rfl
  · rw [neLoadPcBody, pointOperand_error ptDecode_nil]

/-- F5: NE_START with PTC missing; the loaded flags survive. -/
theorem test_neStart_operand_missing :
    responseOf (exec .neStart { loaded 1#256 1#256 with ptcV := false }) = some [0x04#8] ∧
    statusWord (nextOf (exec .neStart { loaded 1#256 1#256 with ptcV := false })) = 0x0000049c#32 := by
  decide +kernel

/-- F10, last line: NE_RD_R without a valid result. -/
theorem test_neRdR_invalid : responseOf (exec .neRdR State.reset) = some [0x05#8] := by decide +kernel

/-- P2, eighth line: the encoded result. -/
theorem test_neRdR_bytes : responseOf (exec .neRdR { State.reset with rV := true, r := Config.group.ident }) =
    some (0x00#8 :: identBytes) := rfl

/-- Vector E7 in Z: both signs, a long scan. -/
theorem test_evaluate_z_generic :
    (evaluate Config.zOps 0xfc975ccdc886fbda097ebed5d72c619c4b485d41f6f6f319bf8d9d3be0aae9
      (Config.zOf 3102667076030461823839739123428293227248229367858210079550019554623882718887)
      0x035a121d8d0d6cc08c7dd8d37b360f10d441d8717d1592b6f3702869b17aae35
      (Config.zOf 891255796360469024064701097688452021032643865973251417688895740225847759436)).toOption.map
        (fun ev => Config.zVal ev.r) =
      some 4368877396249850347286069226613375463217219900674959288077105152198085436823 := by decide +kernel

/-- Vector E1 in the reference instantiation E: `[2]B`. -/
theorem test_evaluate_ed25519 :
    (evaluate edOps 1 edBase 1 edIdent).toOption.map (fun ev => edEncode ev.r) =
      parseHex "c9a3f86aae465f0e56513864510f3997561fa2c9e85ea21dc2292309f3cd6022".toList := by decide +kernel

/-- Section 1.3, `[15]B`, and the encoding of `B` read back. -/
theorem test_ed25519_points :
    some (edEncode (edSmul 15 edBase)) =
      parseHex "df5c2eadc44c6d94a19a9aa118afe5ac3193d26401f76251f522ff042dfbcb92".toList ∧
    edDecode (0x58#8 :: List.replicate 31 0x66#8) = some edBase ∧ edOnCurve edBase = true := by decide +kernel

/-- Section 4: `build(P)` in Z with `P = 3`. -/
theorem test_build_table_z :
    (buildTable Config.zOps (Config.zOf 3)).map Config.zVal = [3, 9, 15, 21, 27, 33, 39, 45] := by decide +kernel

/-- Section 4: the last entry of `TB128` in Z, and the digit that reaches it. -/
theorem test_lookup_z :
    Config.zVal (lookup Config.zOps (tableB128 Config.zOps) 127) = 43215860598959184859848575143834562854912 := by
  decide +kernel

/-- Section 3.2: `naf(0xdeadbeef, 5)` has nonzero digits exactly at six positions. -/
theorem test_naf_width5 :
    (naf 0xdeadbeef 5).toOption.map (fun n => (List.range 256).filterMap
      fun j => if digitAt n j = 0 then none else some (j, digitAt n j)) =
      some [(0, 15), (5, -9), (14, -9), (20, 11), (25, 15), (30, 3)] := by decide +kernel

/-- Section 3.3: `naf(0xdeadbeef, 8)`. -/
theorem test_naf_width8 :
    (naf 0xdeadbeef 8).toOption.map (fun n => (List.range 256).filterMap
      fun j => if digitAt n j = 0 then none else some (j, digitAt n j)) =
      some [(0, -17), (8, -65), (17, 87), (25, 111)] := by decide +kernel

/-- Section 3.1: the split of `ELL − 2^125`. -/
theorem test_split :
    (splitDb (Config.ell - 2 ^ 125)).toOption =
      some (0xf4def9dea2f79cd65812631a5cf5d3ed, 0x0fffffffffffffffffffffffffffffff) := by decide +kernel

/-- R98: the example line of the assembler syntax. -/
theorem test_assembler_line :
    parseLine ("LR_LOAD_A 0100000000000000000000000000000000000000000000000000000000000000".toList ++
      "  => OK # the scalar 1".toList) = some (some ⟨.lrLoadA 1#256, some [0x00#8]⟩) ∧
    scriptText ⟨.lrRdD0, some [0x05#8]⟩ = some "LR_RD_D0  => ERR F_RESULT_INVALID".toList := by decide +kernel

/-! ### Witnesses: every statement's hypotheses can be met -/

/-- A reset block with `A = ELL − 1` loaded meets the invariant. -/
theorem withA_inv : BlockInv (withA ellPred) where
  a_canonical _ := by decide +kernel
  sa_canonical h := by cases h
  sb_canonical h := by cases h
  d_decomposes h := by cases h
  r_evaluates h := by cases h
  cause_zero _ := rfl
  cause_named h := by cases h
  response_allowed r h := by cases h

/-- A block with the decomposition of 0 meets the invariant. -/
theorem withD_inv :
    BlockInv { withD ⟨false, 0#129⟩ ⟨false, 1#129⟩ with a := 0#256, aV := true } where
  a_canonical _ := by decide +kernel
  sa_canonical h := by cases h
  sb_canonical h := by cases h
  d_decomposes _ := ⟨rfl, by
    have h : fsv (0#256 : Scalar).toNat = ⟨0, 1⟩ := by decide +kernel
    show decompose (0#256 : Scalar).toNat = _
    rw [decompose, h]
    rfl⟩
  r_evaluates h := by cases h
  cause_zero _ := rfl
  cause_named h := by cases h
  response_allowed r h := by cases h

/-- A faulted block meets the invariant. -/
theorem faulted_inv : BlockInv (faultedWith .invariant) where
  a_canonical h := by cases h
  sa_canonical h := by cases h
  sb_canonical h := by cases h
  d_decomposes h := by cases h
  r_evaluates h := by cases h
  cause_zero h := by cases h
  cause_named _ := by decide
  response_allowed r h := by cases h

/-- Also for AssemblyLineReadsBack, which has the same hypothesis. -/
theorem witness_EncodedInstructionDecodesBack :
    wellFormed .nop = true ∧ wellFormed (.lrLoadA (BitVec.allOnes 256)) = true ∧
    wellFormed (.neLoadPa identBytes) = true ∧ wellFormed (.neLoadPc identBytes) = true := by
  refine ⟨rfl, rfl, ?_, ?_⟩ <;> simp [wellFormed, identBytes]

theorem witness_DecodedBytesAreTheirEncoding : decode [0x3f#8] = .ok .clear := rfl

theorem witness_OpcodeFixesTheLength :
    decode (commandBytes ⟨0x12#8, identBytes⟩) = .ok (.neLoadPa identBytes) ∧
    decode (commandBytes ⟨0x12#8, List.replicate Config.pointBytes 0xff#8⟩) =
      .ok (.neLoadPa (List.replicate Config.pointBytes 0xff#8)) :=
  ⟨test_decode_neLoadPa _ (by simp [identBytes]), test_decode_neLoadPa _ (by simp)⟩

theorem witness_OpcodeMapWordsDecode : identBytes.length = Config.pointBytes := by simp [identBytes]

theorem witness_ReservedOpcodesFault :
    State.reset.fault = false ∧
    ∀ op ∈ [0x05#8, 0x0f#8, 0x16#8, 0x1f#8, 0x21#8, 0x3e#8, 0x40#8, 0xff#8],
      (0x05 ≤ op.toNat ∧ op.toNat ≤ 0x0f ∨ 0x16 ≤ op.toNat ∧ op.toNat ≤ 0x1f ∨
        0x21 ≤ op.toNat ∧ op.toNat ≤ 0x3e ∨ 0x40 ≤ op.toNat) := ⟨rfl, by decide⟩

theorem witness_WrongLengthsFault :
    State.reset.fault = false ∧ (commandBytes ⟨0x02#8, [0x00#8]⟩).length ≠ 1 ∧
    (commandBytes ⟨0x01#8, List.replicate 31 0x00#8⟩).length ≠ 33 ∧
    (commandBytes ⟨0x10#8, List.replicate 33 0x00#8⟩).length ≠ 33 ∧
    (commandBytes ⟨0x12#8, List.replicate (Config.pointBytes + 1) 0x00#8⟩).length ≠ 1 + Config.pointBytes := by
  refine ⟨rfl, by decide, by decide, by decide, ?_⟩
  simp [commandBytes]
  omega

theorem witness_StepRunsTheDecodedInstruction :
    (State.reset.withFetchWord 8 0x20).port = .running ⟨0x20#8, []⟩ ∧
    (sampledPins (State.reset.withFetchWord 8 0x20)).rst = false ∧
    decode (commandBytes ⟨0x20#8, []⟩) = .ok .rdStatus ∧
    (State.reset.withFetchWord 8 0x05).port = .running ⟨0x05#8, []⟩ ∧
    (sampledPins (State.reset.withFetchWord 8 0x05)).rst = false ∧
    decode (commandBytes ⟨0x05#8, []⟩) = .error (.reservedOpcode 0x05#8) :=
  ⟨rfl, rfl, rfl, rfl, rfl, rfl⟩

theorem witness_PortTakesOneCommandAtATime :
    (sampledPins { State.reset with inputs := [⟨false, some ⟨0x00#8, []⟩, false⟩] }).cmd = some ⟨0x00#8, []⟩ ∧
    (sampledPins { State.reset with inputs := [⟨false, some ⟨0x00#8, []⟩, false⟩] }).rst = false ∧
    (sampledPins State.reset).cmd = none ∧ (sampledPins State.reset).rst = false ∧
    State.reset.port = .idle ∧
    (sampledPins { State.reset with port := .responding [0x00#8], inputs := [⟨false, none, true⟩] }).rspReady = true ∧
    (sampledPins { State.reset with port := .responding [0x00#8] }).rspReady = false :=
  ⟨rfl, rfl, rfl, rfl, rfl, rfl, rfl⟩

/-- NopDoesNothing, RdStatusReturnsTheFlags, ClearZeroesEveryFlag: a block without a fault and a faulted one. -/
theorem witness_fault_cases : State.reset.fault = false ∧ (faultedWith .illegalCmd).fault = true := ⟨rfl, rfl⟩

/-- LrLoadALoadsCanonicalScalars, NeLoadSaLoadsCanonicalScalars, NeLoadSbLoadsCanonicalScalars: both sides of ELL. -/
theorem witness_ScalarLoads :
    State.reset.fault = false ∧ ellPred.toNat < Config.ell ∧ Config.ell ≤ ellScalar.toNat ∧
    (faultedWith .noncanonical).fault = true := ⟨rfl, by decide +kernel, by decide +kernel, rfl⟩

theorem witness_LrStartStoresTheShortVector :
    (withA ellPred).fault = false ∧ (withA ellPred).aV = true ∧ (withA ellPred).a.toNat < Config.ell ∧
    State.reset.aV = false ∧ (faultedWith .operandMissing).fault = true :=
  ⟨rfl, rfl, by decide +kernel, rfl, rfl⟩

/-- LrRdD0ReturnsD0, LrRdD1ReturnsD1. -/
theorem witness_LrRdReturnsD :
    (withD ⟨false, 1#129⟩ ⟨true, 1#129⟩).fault = false ∧ (withD ⟨false, 1#129⟩ ⟨true, 1#129⟩).dV = true ∧
    State.reset.fault = false ∧ State.reset.dV = false ∧ (faultedWith .resultInvalid).fault = true :=
  ⟨rfl, rfl, rfl, rfl, rfl⟩

/-- NeLoadPaLoadsDecodedPoints, NeLoadPcLoadsDecodedPoints. The refused operand is the empty one: whether any string of
`POINT_BYTES` bytes is refused is open for the machine's own group; witness_RefusedPoint shows one in Z. -/
theorem witness_PointLoads :
    State.reset.fault = false ∧ Config.ptDecode identBytes = some Config.group.ident ∧
    Config.ptDecode [] = none ∧ (faultedWith .pointInvalid).fault = true :=
  ⟨rfl, Config.ptDecode_ptEncode _, ptDecode_nil, rfl⟩

theorem witness_LoadsInAnyOrder :
    instrOpcode (.neLoadSa ellPred) ∈ [Opcode.neLoadSa, .neLoadSb, .neLoadPa, .neLoadPc] ∧
    instrOpcode (.neLoadSb 1#256) ∈ [Opcode.neLoadSa, .neLoadSb, .neLoadPa, .neLoadPc] ∧
    (∃ t u v w, exec (.neLoadSa ellPred) State.reset = .next t ∧ t.fault = false ∧
      exec (.neLoadSb 1#256) t = .next u ∧ u.fault = false ∧ exec (.neLoadSb 1#256) State.reset = .next v ∧
      exec (.neLoadSa ellPred) v = .next w) ∧
    ∃ t u v w, exec (.neLoadSa ellPred) State.reset = .next t ∧ t.fault = false ∧
      exec (.neLoadSa 1#256) t = .next u ∧ u.fault = false ∧ exec (.neLoadSa 1#256) State.reset = .next v ∧
      exec (.neLoadSa ellPred) v = .next w :=
  ⟨by decide, by decide,
    ⟨_, _, _, _, rfl, by decide +kernel, rfl, by decide +kernel, rfl, rfl⟩,
    ⟨_, _, _, _, rfl, by decide +kernel, rfl, by decide +kernel, rfl, rfl⟩⟩

theorem witness_NeStartComputesTheResult :
    (loaded ellPred ellPred).fault = false ∧ (loaded ellPred ellPred).saV = true ∧
    (loaded ellPred ellPred).sbV = true ∧ (loaded ellPred ellPred).ptaV = true ∧
    (loaded ellPred ellPred).ptcV = true ∧ (loaded ellPred ellPred).sa.toNat < Config.ell ∧
    (loaded ellPred ellPred).sb.toNat < Config.ell :=
  ⟨rfl, rfl, rfl, rfl, rfl, by decide +kernel, by decide +kernel⟩

theorem witness_NeStartNeedsAllFourOperands :
    ({ loaded 1#256 1#256 with saV := false } : State).saV = false ∧
    ({ loaded 1#256 1#256 with sbV := false } : State).sbV = false ∧
    ({ loaded 1#256 1#256 with ptaV := false } : State).ptaV = false ∧
    ({ loaded 1#256 1#256 with ptcV := false } : State).ptcV = false ∧
    (loaded 1#256 1#256).fault = false ∧ (faultedWith .operandMissing).fault = true :=
  ⟨rfl, rfl, rfl, rfl, rfl, rfl⟩

theorem witness_NeStartReducesLikeTheReducer :
    (loaded 1#256 1#256).fault = false ∧ evaluatorOperandsValid (loaded 1#256 1#256) = true ∧
    (loaded 1#256 1#256).sa.toNat < Config.ell ∧ (loaded 1#256 1#256).sb.toNat < Config.ell ∧
    ∃ t u v, exec .neStart (loaded 1#256 1#256) = .next t ∧
      exec (.lrLoadA (loaded 1#256 1#256).sa) (loaded 1#256 1#256) = .next u ∧ exec .lrStart u = .next v :=
  ⟨rfl, rfl, by decide +kernel, by decide +kernel, _, _, _, rfl, rfl, rfl⟩

theorem witness_NeRdRReturnsTheEncodedResult :
    ({ State.reset with rV := true } : State).rV = true ∧ ({ State.reset with rV := true } : State).fault = false ∧
    State.reset.rV = false ∧ State.reset.fault = false ∧ (faultedWith .resultInvalid).fault = true :=
  ⟨rfl, rfl, rfl, rfl, rfl⟩

theorem witness_ReadsHaveNoSideEffects :
    Instr.rdStatus ∈ [Instr.lrRdD0, Instr.lrRdD1, Instr.neRdR, Instr.rdStatus] ∧
    (∃ t data, exec .rdStatus State.reset = .next t ∧ t.port = .responding (0x00#8 :: data)) ∧
    (∃ t data, exec .lrRdD0 (withD ⟨false, 1#129⟩ ⟨true, 1#129⟩) = .next t ∧
      t.port = .responding (0x00#8 :: data)) ∧
    (∃ t data, exec .lrRdD1 (withD ⟨false, 1#129⟩ ⟨true, 1#129⟩) = .next t ∧
      t.port = .responding (0x00#8 :: data)) ∧
    ∃ t data, exec .neRdR { State.reset with rV := true } = .next t ∧ t.port = .responding (0x00#8 :: data) :=
  ⟨by decide, ⟨_, _, rfl, rfl⟩, ⟨_, _, rfl, rfl⟩, ⟨_, _, rfl, rfl⟩, ⟨_, _, rfl, rfl⟩⟩

theorem witness_ValidFlagsFollowTheFlagTable :
    (∃ t, exec (.lrLoadA 1#256) (withD ⟨false, 1#129⟩ ⟨true, 1#129⟩) = .next t ∧ t.fault = false) ∧
    (∃ t, exec .clear (faultedWith .illegalCmd) = .next t ∧ t.fault = false) ∧
    ∃ t, exec .lrStart State.reset = .next t ∧ t.fault = true :=
  ⟨⟨_, rfl, by decide +kernel⟩, ⟨_, rfl, rfl⟩, ⟨_, rfl, rfl⟩⟩

theorem witness_FaultsArePrecise :
    State.reset.fault = false ∧ ∃ t, perform ⟨0xff#8, []⟩ State.reset = .next t ∧ t.fault = true :=
  ⟨rfl, _, rfl, rfl⟩

theorem witness_FaultedBlockRefusesCommands :
    (faultedWith .invariant).fault = true ∧ (⟨0x20#8, [0x00#8]⟩ : Command) ≠ ⟨0x20#8, []⟩ ∧
    (⟨0x3f#8, [0x00#8]⟩ : Command) ≠ ⟨0x3f#8, []⟩ ∧ (⟨0x00#8, []⟩ : Command) ≠ ⟨0x20#8, []⟩ ∧
    (⟨0x00#8, []⟩ : Command) ≠ ⟨0x3f#8, []⟩ := ⟨rfl, by decide, by decide, by decide, by decide⟩

theorem witness_OnlyClearAndResetEndAFault :
    (∃ t, step { faultedWith .invariant with port := .running ⟨0x3f#8, []⟩ } = .next t ∧ t.fault = false) ∧
    (∃ t, step { faultedWith .invariant with inputs := [⟨true, none, false⟩] } = .next t ∧ t.fault = false) ∧
    ∃ t, step { faultedWith .invariant with port := .running ⟨0x00#8, []⟩ } = .next t ∧ t.fault = true :=
  ⟨⟨_, rfl, rfl⟩, ⟨_, rfl, rfl⟩, ⟨_, rfl, rfl⟩⟩

theorem witness_InvariantFaultIsNeverRaised :
    BlockInv (withA ellPred) ∧ (withA ellPred).fault = false ∧
    ∃ t, perform ⟨0x02#8, []⟩ (withA ellPred) = .next t :=
  ⟨withA_inv, rfl, command_answers lrStartBody (withA ellPred)⟩

theorem witness_ResetPinResetsTheBlock :
    (sampledPins { faultedWith .illegalCmd with inputs := [⟨true, some ⟨0x00#8, []⟩, true⟩] }).rst = true := rfl

theorem witness_ClearAndResetReachTheSameState : ∃ t, exec .clear (faultedWith .invariant) = .next t := ⟨_, rfl⟩

theorem witness_StepKeepsTheInvariant :
    (BlockInv (withA ellPred) ∧ ∃ t, step (withA ellPred) = .next t) ∧
    BlockInv (faultedWith .invariant) ∧ ∃ t, step (faultedWith .invariant) = .next t :=
  ⟨⟨withA_inv, _, rfl⟩, faulted_inv, _, rfl⟩

theorem witness_NoNegativeZeroIsStored :
    ∃ s : State, BlockInv s ∧ s.dV = true ∧ s.d0.mag = 0#129 := ⟨_, withD_inv, rfl, rfl⟩

theorem witness_NearestRoundsHalfUp :
    (0 : Int) < 2 ∧ ((1 : Int) - 0 * 2).natAbs = (1 - nearest 1 2 * 2).natAbs ∧
    0 < rowNorm ⟨1, -1⟩ ∧
    (2 * rowInner ⟨1, 0⟩ ⟨1, -1⟩ + rowNorm ⟨1, -1⟩) % (2 * rowNorm ⟨1, -1⟩) = 0 := by decide

/-- The rows of trace 2.1 at its start meet the loop invariants, and the first pass exchanges them. -/
theorem witness_ReducerLoopKeepsItsInvariants :
    RowsSound (Config.ell - 1) ⟨Config.ell, 0⟩ ⟨Config.ell - 1, 1⟩ ∧
    rowNorm (reducedRow ⟨Config.ell, 0⟩ ⟨Config.ell - 1, 1⟩) < rowNorm ⟨Config.ell - 1, 1⟩ := by
  refine ⟨⟨⟨1, by norm_num⟩, ⟨0, ?_⟩, by decide +kernel, by decide +kernel, by decide +kernel⟩, by decide +kernel⟩
  norm_num [Config.ell]

/-- ReducerLoopEndsByItsExitTest, ShortVectorMeetsTheContract, SplitCutsAtBit128, and the scalars of the evaluation
statements, at both ends of their range. -/
theorem witness_CanonicalOperands :
    0 < Config.ell ∧ Config.ell - 1 < Config.ell ∧ reduceFuel 0 ≤ 2 ∧ 2 ^ 125 < Config.ell := by decide +kernel

theorem witness_ShortVectorIsShortest :
    2 < Config.ell ∧ InLattice 2 ⟨2, 1⟩ ∧ (⟨2, 1⟩ : Row) ≠ ⟨0, 0⟩ := ⟨by decide +kernel, ⟨0, rfl⟩, by decide⟩

theorem witness_SmallAndLargeOperandsReduceAsStated : 1 ≤ 2 ^ 125 ∧ 2 ^ 125 ≤ 2 ^ 125 := by decide +kernel

theorem witness_ToSiSplitsSignAndMagnitude :
    ((2 : Int) ^ 129 - 1).natAbs < 2 ^ 129 ∧ (-((2 : Int) ^ 129 - 1)).natAbs < 2 ^ 129 ∧
    2 ^ 129 ≤ ((2 : Int) ^ 129).natAbs := by decide +kernel

theorem witness_ScalarRingOperationsAreExact :
    Config.ell - 1 < Config.ell ∧ Config.ell - 1 ≠ 0 ∧ Config.ell ≤ Config.ell ∧
    fromLe (toLe 32 (Config.ell - 1)) < Config.ell := by
  decide +kernel

theorem witness_NafDigitsMeetTheirContract :
    2 ≤ 2 ∧ 8 ≤ 8 ∧ 2 ^ 255 - 1 < 2 ^ 255 ∧ 2 ^ 253 - 1 < 2 ^ 253 ∧
    (naf 129 8).toOption.map (fun n => (digitAt n 0, digitAt n 8)) = some (-127, 1) := by decide +kernel

/-- ScalarMultiplicationLaws (second part), ResultIsTheTargetTimesDelta and IdentityVerdictSurvivesTheScaling: groups that
meet R8, and a point of order dividing ELL. -/
theorem witness_LawfulGroup :
    Config.zOps.Lawful ∧ Config.group.Lawful ∧
    Config.zOps.smul (Config.ell : Int) (Config.zOf 5) = Config.zOps.ident :=
  ⟨Config.zOps_lawful, Config.group_lawful, by decide +kernel⟩

/-- The integers under addition with `B = 1`: an abelian group in which `[ELL]B` is not the identity. -/
def intOps : GroupOps Int where
  ident := 0
  gadd x y := x + y
  gneg x := -x
  gdouble x := x + x
  smul k x := k * x
  base := 1

/-- Base128FoldsTheHighHalf, EvaluationIdentityInEveryGroup and every other statement about any abelian group, in one where
`B` has not the order ELL and in the machine's own. -/
theorem witness_AbelianGroup :
    intOps.Abelian ∧ intOps.smul (Config.ell : Int) intOps.base ≠ intOps.ident ∧ Config.group.Abelian :=
  ⟨⟨Int.add_assoc, Int.add_comm, Int.add_zero, Int.add_right_neg, fun _ => rfl, Int.zero_mul,
    fun k P => by simp only [intOps, Int.add_mul, Int.one_mul], fun k P => Int.neg_mul k P⟩,
    by decide +kernel, Config.group_lawful.toAbelian⟩

/-- A payload of the right length that `pt_decode` of instantiation Z refuses: the bytes of ELL (F6b). -/
theorem witness_RefusedPoint :
    (toLe 32 Config.ell).length = Config.zParams.pointBytes ∧ Config.zParams.ptDecode (toLe 32 Config.ell) = none := by
  decide +kernel

/-- BuiltTableHoldsOddMultiples, StaticTablesHoldOddMultiples, LookupGivesTheDigitsMultiple, at the last entries. -/
theorem witness_TableIndices : 1 ≤ 8 ∧ 8 ≤ 8 ∧ 64 ≤ 64 ∧ (0 : Int) < 15 ∧ (15 : Int) % 2 = 1 ∧
    (0 : Int) < 127 ∧ (127 : Int) % 2 = 1 := by decide

theorem witness_ScanComputesTheFourTermSum : DigitsFit ⟨[15, 0, -15], [-127], [127], [1]⟩ := by
  intro j
  rcases j with _ | _ | _ | j <;> simp [digitAt, DigitFits, Config.wVar, Config.wFix]

end Sys2Proof.Tests
end

section
/-! PROOFS. The state of the block: what one command can do to it, said once, and from that the flag table (R30), the
state after reset (R50) and the invariant of Safety.lean. -/

namespace Sys2Proof.Machine

/-! ### What an accepted operand or a passed test says -/

/-- A point operand that is accepted is what `pt_decode` makes of the payload. -/
theorem pointOperand_eq_ok {pt : List Byte} {p : Point} (h : pointOperand pt = .ok p) :
    Config.ptDecode pt = some p := by
  unfold pointOperand at h
  split at h
  · next hq => rw [hq, Except.ok.inj h]
  · cases h

theorem assertElse_eq_ok {b : Bool} {c : Cause} {x : Unit} (h : assertElse b c = .ok x) : b = true := by
  cases b with
  | true => rfl
  | false => rw [assertElse_false rfl] at h; cases h

/-- `to_si` answers sign and magnitude, and nothing else. -/
theorem toSi_eq_ok {x : Int} {d : SignedInt} (h : toSi x = .ok d) :
    x.natAbs < 2 ^ 129 ∧ d = ⟨decide (x < 0), BitVec.ofNat 129 x.natAbs⟩ := by
  rcases Nat.lt_or_ge x.natAbs (2 ^ 129) with hx | hx
  · rw [toSi_ok hx] at h
    exact ⟨hx, (Except.ok.inj h).symm⟩
  · rw [toSi_error hx] at h
    cases h

/-- A decomposition that succeeds is both components of the short row through `to_si`. -/
theorem decompose_eq_ok {a : Nat} {x y : SignedInt} (h : decompose a = .ok (x, y)) :
    toSi (fsv a).x = .ok x ∧ toSi (fsv a).y = .ok y := by
  unfold decompose at h
  split at h
  · next hx hy => cases h; exact ⟨hx, hy⟩
  · cases h
  · cases h

/-- Steps 2 to 5 hand the decomposition on unchanged. -/
theorem evaluateWith_decomposition {α : Type} {G : GroupOps α} {x y : SignedInt} {A C : α} {b : Nat}
    {ev : Evaluation α} (h : evaluateWith G x y A b C = .ok ev) : ev.d0 = x ∧ ev.d1 = y := by
  unfold evaluateWith at h
  dsimp only at h
  split at h
  · cases h
  · split at h
    · cases h
    · cases h; exact ⟨rfl, rfl⟩

/-- The decomposition inside an evaluation is the reducer's (R186). -/
theorem evaluate_decompose {α : Type} {G : GroupOps α} {a b : Nat} {A C : α} {ev : Evaluation α}
    (h : evaluate G a A b C = .ok ev) : decompose a = .ok (ev.d0, ev.d1) := by
  unfold evaluate at h
  split at h
  · cases h
  · next hd =>
    obtain ⟨hx, hy⟩ := evaluateWith_decomposition h
    rw [hd, hx, hy]

/-! ### What one command can do -/

/-- The ordinary instruction `i` can complete from `s`: what its tests have found, the state `u` it writes, and the
data of its response. -/
inductive Completes (s : State) : Instr → State → List Byte → Prop where
  | nop : Completes s .nop s []
  | lrLoadA {x : Scalar} (hx : x.toNat < Config.ell) : Completes s (.lrLoadA x) (writeA x s) []
  | lrStart {x y : SignedInt} (ha : s.aV = true) (hd : decompose s.a.toNat = .ok (x, y)) :
      Completes s .lrStart (writeD x y s) []
  | lrRdD0 (hd : s.dV = true) : Completes s .lrRdD0 s (signedBytes s.d0)
  | lrRdD1 (hd : s.dV = true) : Completes s .lrRdD1 s (signedBytes s.d1)
  | neLoadSa {x : Scalar} (hx : x.toNat < Config.ell) : Completes s (.neLoadSa x) (writeSA x s) []
  | neLoadSb {x : Scalar} (hx : x.toNat < Config.ell) : Completes s (.neLoadSb x) (writeSB x s) []
  | neLoadPa {pt : List Byte} {p : Point} (hp : Config.ptDecode pt = some p) :
      Completes s (.neLoadPa pt) (writePTA p s) []
  | neLoadPc {pt : List Byte} {p : Point} (hp : Config.ptDecode pt = some p) :
      Completes s (.neLoadPc pt) (writePTC p s) []
  | neStart {ev : Evaluation Point} (hv : evaluatorOperandsValid s = true)
      (he : evaluate Config.group s.sa.toNat s.pta s.sb.toNat s.ptc = .ok ev) :
      Completes s .neStart (writeR ev.r (writeD ev.d0 ev.d1 (writeA s.sa s))) []
  | neRdR (hr : s.rV = true) : Completes s .neRdR s (Config.ptEncode s.r)

section Bodies

variable {s u : State} {data : List Byte}

theorem nopBody_completes (h : nopBody s = .ok (u, data)) : Completes s .nop u data := by
  cases h
  exact .nop

theorem lrLoadABody_completes {x : Scalar} (h : lrLoadABody x s = .ok (u, data)) :
    Completes s (.lrLoadA x) u data := by
  unfold lrLoadABody at h
  split at h
  · next hv =>
    obtain ⟨rfl, hx⟩ := scalarOperand_eq_ok hv
    cases h
    exact .lrLoadA hx
  · cases h

theorem lrStartBody_completes (h : lrStartBody s = .ok (u, data)) : Completes s .lrStart u data := by
  unfold lrStartBody at h
  split at h
  · cases h
  · next ha =>
    split at h
    · next hd =>
      cases h
      exact .lrStart (assertElse_eq_ok ha) hd
    · cases h

theorem lrRdD0Body_completes (h : lrRdD0Body s = .ok (u, data)) : Completes s .lrRdD0 u data := by
  unfold lrRdD0Body at h
  split at h
  · next hd =>
    cases h
    exact .lrRdD0 (assertElse_eq_ok hd)
  · cases h

theorem lrRdD1Body_completes (h : lrRdD1Body s = .ok (u, data)) : Completes s .lrRdD1 u data := by
  unfold lrRdD1Body at h
  split at h
  · next hd =>
    cases h
    exact .lrRdD1 (assertElse_eq_ok hd)
  · cases h

theorem neLoadSaBody_completes {x : Scalar} (h : neLoadSaBody x s = .ok (u, data)) :
    Completes s (.neLoadSa x) u data := by
  unfold neLoadSaBody at h
  split at h
  · next hv =>
    obtain ⟨rfl, hx⟩ := scalarOperand_eq_ok hv
    cases h
    exact .neLoadSa hx
  · cases h

theorem neLoadSbBody_completes {x : Scalar} (h : neLoadSbBody x s = .ok (u, data)) :
    Completes s (.neLoadSb x) u data := by
  unfold neLoadSbBody at h
  split at h
  · next hv =>
    obtain ⟨rfl, hx⟩ := scalarOperand_eq_ok hv
    cases h
    exact .neLoadSb hx
  · cases h

theorem neLoadPaBody_completes {pt : List Byte} (h : neLoadPaBody pt s = .ok (u, data)) :
    Completes s (.neLoadPa pt) u data := by
  unfold neLoadPaBody at h
  split at h
  · next hp =>
    cases h
    exact .neLoadPa (pointOperand_eq_ok hp)
  · cases h

theorem neLoadPcBody_completes {pt : List Byte} (h : neLoadPcBody pt s = .ok (u, data)) :
    Completes s (.neLoadPc pt) u data := by
  unfold neLoadPcBody at h
  split at h
  · next hp =>
    cases h
    exact .neLoadPc (pointOperand_eq_ok hp)
  · cases h

theorem neStartBody_completes (h : neStartBody s = .ok (u, data)) : Completes s .neStart u data := by
  unfold neStartBody at h
  split at h
  · cases h
  · next hv =>
    split at h
    · cases h
    · next he =>
      cases h
      exact .neStart (assertElse_eq_ok hv) he

theorem neRdRBody_completes (h : neRdRBody s = .ok (u, data)) : Completes s .neRdR u data := by
  unfold neRdRBody at h
  split at h
  · next hr =>
    cases h
    exact .neRdR (assertElse_eq_ok hr)
  · cases h

/-- An ordinary command that completes has not touched FAULT. -/
theorem Completes.fault_eq {i : Instr} (h : Completes s i u data) : u.fault = s.fault := by
  cases h <;> rfl

end Bodies

/-- The outcomes of one instruction: refused in a faulted block, a fault raised, completed, or one of the two
system commands (R233, R236). -/
inductive Answers (s : State) (i : Instr) : State → Prop where
  | refused (hf : s.fault = true) : Answers s i (refuseFaulted s)
  | raised (hf : s.fault = false) (c : Cause) : Answers s i (raiseFault c s)
  | completed (hf : s.fault = false) {u : State} {data : List Byte} (hc : Completes s i u data) :
      Answers s i (respond okCode data u)
  | status (hi : i = .rdStatus) : Answers s i (respond okCode (statusBytes s) s)
  | cleared (hi : i = .clear) : Answers s i (respond okCode [] (returnToReset s))

/-- A command behind `common_checks()` answers as its body allows. -/
theorem command_answers_of_body {body : State → Except Cause (State × List Byte)} {s t : State} {i : Instr}
    (hb : ∀ {u data}, body s = .ok (u, data) → Completes s i u data) (h : command body s = .next t) :
    Answers s i t := by
  obtain ⟨hf, rfl⟩ | ⟨hf, u, data, hu, rfl⟩ | ⟨hf, c, -, rfl⟩ := command_next h
  · exact .refused hf
  · exact .completed hf (hb hu)
  · exact .raised hf c

/-- Everything one instruction can do. -/
theorem exec_answers {i : Instr} {s t : State} (h : exec i s = .next t) : Answers s i t := by
  cases i with
  | nop => exact command_answers_of_body nopBody_completes h
  | lrLoadA x => exact command_answers_of_body lrLoadABody_completes h
  | lrStart => exact command_answers_of_body lrStartBody_completes h
  | lrRdD0 => exact command_answers_of_body lrRdD0Body_completes h
  | lrRdD1 => exact command_answers_of_body lrRdD1Body_completes h
  | neLoadSa x => exact command_answers_of_body neLoadSaBody_completes h
  | neLoadSb x => exact command_answers_of_body neLoadSbBody_completes h
  | neLoadPa pt => exact command_answers_of_body neLoadPaBody_completes h
  | neLoadPc pt => exact command_answers_of_body neLoadPcBody_completes h
  | neStart => exact command_answers_of_body neStartBody_completes h
  | neRdR => exact command_answers_of_body neRdRBody_completes h
  | rdStatus =>
    rw [exec_rdStatus] at h
    cases h
    exact .status rfl
  | clear =>
    rw [exec_clear] at h
    cases h
    exact .cleared rfl

/-! ### Flags, FAULT and CAUSE at zero (R50, R222, R260) -/

/-- Every field of STATUS is zero. -/
structure StatusClear (s : State) : Prop where
  aV : s.aV = false
  dV : s.dV = false
  saV : s.saV = false
  sbV : s.sbV = false
  ptaV : s.ptaV = false
  ptcV : s.ptcV = false
  rV : s.rV = false
  fault : s.fault = false
  cause : s.cause = 0#4

theorem reset_statusClear : StatusClear State.reset := ⟨rfl, rfl, rfl, rfl, rfl, rfl, rfl, rfl, rfl⟩

theorem returnToReset_statusClear (s : State) : StatusClear (returnToReset s) :=
  ⟨rfl, rfl, rfl, rfl, rfl, rfl, rfl, rfl, rfl⟩

theorem resetBlock_statusClear (s : State) : StatusClear (resetBlock s) :=
  ⟨rfl, rfl, rfl, rfl, rfl, rfl, rfl, rfl, rfl⟩

theorem StatusClear.statusWord_eq {s : State} (h : StatusClear s) : statusWord s = 0#32 := by
  obtain ⟨ha, hd, hsa, hsb, hpa, hpc, hr, hf, hc⟩ := h
  rw [statusWord, ha, hd, hsa, hsb, hpa, hpc, hr, hf, hc]
  rfl

/-- With no flag set, only the port is left for the invariant to speak of. -/
theorem StatusClear.blockInv {s : State} (h : StatusClear s)
    (hp : ∀ r, s.port = .responding r → responseAllowed r) : BlockInv s where
  a_canonical hv := by simp [h.aV] at hv
  sa_canonical hv := by simp [h.saV] at hv
  sb_canonical hv := by simp [h.sbV] at hv
  d_decomposes hv := by simp [h.dV] at hv
  r_evaluates hv := by simp [h.rV] at hv
  cause_zero _ := h.cause
  cause_named hf := by simp [h.fault] at hf
  response_allowed := hp

/-! ### Allowed responses (R86, R87) -/

theorem responseAllowed_okCode (data : List Byte) : responseAllowed (okCode :: data) :=
  ⟨by decide, fun h => absurd rfl h⟩

theorem responseAllowed_responseCode {c : BitVec 4} (h : c.toNat ≤ 6) : responseAllowed [responseCode c] :=
  ⟨by rwa [responseCode_toNat], fun _ => rfl⟩

theorem causeCode_bounds (c : Cause) : 1 ≤ (causeCode c).toNat ∧ (causeCode c).toNat ≤ 6 := by
  cases c <;> decide

/-! ### Each operation on the state keeps the invariant -/

namespace BlockInv

variable {s : State}

/-- The invariant does not speak of the inputs. -/
theorem after_consumeInput (h : BlockInv s) : BlockInv (consumeInput s) := { h with }

/-- Of the port the invariant asks only that a response is an allowed one. -/
theorem with_port (h : BlockInv s) {p : Port} (hp : ∀ r, p = .responding r → responseAllowed r) :
    BlockInv { s with port := p } :=
  { h with response_allowed := hp }

theorem after_respond (h : BlockInv s) {rc : Byte} {data : List Byte} (hr : responseAllowed (rc :: data)) :
    BlockInv (respond rc data s) :=
  h.with_port fun _ hp => Port.responding.inj hp ▸ hr

theorem after_refuseFaulted (h : BlockInv s) (hf : s.fault = true) : BlockInv (refuseFaulted s) :=
  h.after_respond (responseAllowed_responseCode (h.cause_named hf).2)

theorem after_raiseFault (h : BlockInv s) (c : Cause) : BlockInv (raiseFault c s) :=
  have hs : BlockInv { s with fault := true, cause := causeCode c } :=
    { h with
      cause_zero := nofun
      cause_named := fun _ => causeCode_bounds c }
  hs.after_respond (responseAllowed_responseCode (causeCode_bounds c).2)

theorem after_writeA (h : BlockInv s) {x : Scalar} (hx : x.toNat < Config.ell) : BlockInv (writeA x s) :=
  { h with
    a_canonical := fun _ => hx
    d_decomposes := nofun }

theorem after_writeD (h : BlockInv s) {x y : SignedInt} (ha : s.aV = true)
    (hd : decompose s.a.toNat = .ok (x, y)) : BlockInv (writeD x y s) :=
  { h with d_decomposes := fun _ => ⟨ha, hd⟩ }

theorem after_writeSA (h : BlockInv s) {x : Scalar} (hx : x.toNat < Config.ell) : BlockInv (writeSA x s) :=
  { h with
    sa_canonical := fun _ => hx
    r_evaluates := nofun }

theorem after_writeSB (h : BlockInv s) {x : Scalar} (hx : x.toNat < Config.ell) : BlockInv (writeSB x s) :=
  { h with
    sb_canonical := fun _ => hx
    r_evaluates := nofun }

theorem after_writePTA (h : BlockInv s) (p : Point) : BlockInv (writePTA p s) :=
  { h with r_evaluates := nofun }

theorem after_writePTC (h : BlockInv s) (p : Point) : BlockInv (writePTC p s) :=
  { h with r_evaluates := nofun }

theorem after_writeR (h : BlockInv s) {ev : Evaluation Point} (hv : evaluatorOperandsValid s = true)
    (he : evaluate Config.group s.sa.toNat s.pta s.sb.toNat s.ptc = .ok ev) : BlockInv (writeR ev.r s) :=
  { h with r_evaluates := fun _ => ⟨hv, ev, he, rfl⟩ }

/-- What NE_START writes: `SA` is canonical, so it may become `A`; the evaluation's decomposition is that of `A`. -/
theorem after_writeEvaluation (h : BlockInv s) {ev : Evaluation Point} (hv : evaluatorOperandsValid s = true)
    (he : evaluate Config.group s.sa.toNat s.pta s.sb.toNat s.ptc = .ok ev) :
    BlockInv (writeR ev.r (writeD ev.d0 ev.d1 (writeA s.sa s))) :=
  have hsa := h.sa_canonical (evaluatorOperandsValid_iff.mp hv).1
  ((h.after_writeA hsa).after_writeD rfl (evaluate_decompose he)).after_writeR hv he

theorem after_returnToReset (h : BlockInv s) : BlockInv (returnToReset s) :=
  (returnToReset_statusClear s).blockInv h.response_allowed

/-! ### Commands and steps keep the invariant -/

theorem after_completes (h : BlockInv s) {i : Instr} {u : State} {data : List Byte} (hc : Completes s i u data) :
    BlockInv u := by
  cases hc with
  | nop => exact h
  | lrLoadA hx => exact h.after_writeA hx
  | lrStart ha hd => exact h.after_writeD ha hd
  | lrRdD0 _ => exact h
  | lrRdD1 _ => exact h
  | neLoadSa hx => exact h.after_writeSA hx
  | neLoadSb hx => exact h.after_writeSB hx
  | neLoadPa _ => exact h.after_writePTA _
  | neLoadPc _ => exact h.after_writePTC _
  | neStart hv he => exact h.after_writeEvaluation hv he
  | neRdR _ => exact h

theorem after_exec (h : BlockInv s) {i : Instr} {t : State} (ht : exec i s = .next t) : BlockInv t := by
  cases exec_answers ht with
  | refused hf => exact h.after_refuseFaulted hf
  | raised _ c => exact h.after_raiseFault c
  | completed _ hc => exact (h.after_completes hc).after_respond (responseAllowed_okCode _)
  | status _ => exact h.after_respond (responseAllowed_okCode _)
  | cleared _ => exact h.after_returnToReset.after_respond (responseAllowed_okCode _)

theorem after_illegalCommand (h : BlockInv s) {t : State} (ht : illegalCommand s = .next t) : BlockInv t := by
  obtain ⟨hf, rfl⟩ | ⟨-, u, data, hu, -⟩ | ⟨-, c, -, rfl⟩ := command_next ht
  · exact h.after_refuseFaulted hf
  · cases hu
  · exact h.after_raiseFault c

theorem after_perform (h : BlockInv s) {c : Command} {t : State} (ht : perform c s = .next t) : BlockInv t := by
  obtain ⟨i, -, hi⟩ | ⟨e, -, he⟩ := perform_cases c s
  · exact h.after_exec (hi ▸ ht)
  · exact h.after_illegalCommand (he ▸ ht)

theorem after_step (h : BlockInv s) {t : State} (ht : step s = .next t) : BlockInv t := by
  have hs := h.after_consumeInput
  obtain ⟨-, rfl⟩ | ⟨-, ⟨c, -, hc⟩ | ⟨-, c, -, rfl⟩ | ⟨-, -, rfl⟩ | ⟨r, -, -, rfl⟩ | ⟨r, -, -, rfl⟩⟩ :=
    step_cases ht
  · exact (resetBlock_statusClear _).blockInv nofun
  · exact hs.after_perform hc
  · exact hs.with_port nofun
  · exact hs
  · exact hs.with_port nofun
  · exact hs

end BlockInv

/-- `to_si` gives zero no sign. -/
theorem toSi_neg_of_mag_zero {x : Int} {d : SignedInt} (h : toSi x = .ok d) (hm : d.mag = 0#129) :
    d.neg = false := by
  obtain ⟨hx, rfl⟩ := toSi_eq_ok h
  have h0 : x.natAbs % 2 ^ 129 = 0 := by simpa using congrArg BitVec.toNat hm
  have hz : x = 0 := by rwa [Nat.mod_eq_of_lt hx, Int.natAbs_eq_zero] at h0
  simp [hz]

/-! ### The obligations -/

/-- Settles O37: every outcome of a step is built of operations that keep the invariant. -/
theorem stepKeepsTheInvariant : Obligations.StepKeepsTheInvariant := fun _ _ h ht => h.after_step ht

/-- Settles O28: a completed command follows the table, since its writes do; a fault or a refusal writes no flag. -/
theorem validFlagsFollowTheFlagTable : Obligations.ValidFlagsFollowTheFlagTable := by
  intro i s t h
  cases exec_answers h with
  | refused hf => exact ⟨fun h0 => by simp [hf] at h0, fun _ => by simp⟩
  | raised _ c => exact ⟨fun _ h0 => by simp at h0, fun _ => by simp⟩
  | completed hf hc =>
    refine ⟨fun _ _ => ?_, fun h1 => ?_⟩
    · cases hc <;> simp
    · simp [hc.fault_eq, hf] at h1
  | status hi => subst hi; simp
  | cleared hi => subst hi; simp

/-- Settles O38: a valid pair came through `to_si`. -/
theorem noNegativeZeroIsStored : Obligations.NoNegativeZeroIsStored := by
  intro s h hv
  obtain ⟨-, hd⟩ := h.d_decomposes hv
  obtain ⟨hx, hy⟩ := decompose_eq_ok hd
  exact ⟨toSi_neg_of_mag_zero hx, toSi_neg_of_mag_zero hy⟩

/-- Settles O33: reset writes zero to each field that has a value then. -/
theorem resetStateIsClear : Obligations.ResetStateIsClear :=
  ⟨rfl, rfl, rfl, rfl, rfl, rfl, rfl, rfl, rfl, reset_statusClear.statusWord_eq, rfl, rfl⟩

/-- Settles O36: no flag is set and no response is on offer. -/
theorem resetMeetsTheInvariant : Obligations.ResetMeetsTheInvariant := reset_statusClear.blockInv nofun

end Sys2Proof.Machine
end

section
/-! PROOFS. The four reads (spec/20_memory.md rule R69): one that succeeds writes the port only, and none sees the port it
finds, so a repeated read has the same answer. -/

namespace Sys2Proof.Machine

/-- The four reads (R69). -/
def readInstrs : List Instr := [.lrRdD0, .lrRdD1, .neRdR, .rdStatus]

/-! ### A read that succeeds writes the port only -/

/-- A fault is never answered with the code of success (R87). -/
theorem responseCode_causeCode_ne_ok (c : Cause) : responseCode (causeCode c) ≠ okCode := by
  cases c <;> decide

/-- A read that completes writes no register and no flag. -/
theorem Completes.eq_of_read {i : Instr} {s u : State} {data : List Byte} (h : Completes s i u data)
    (hi : i ∈ readInstrs) : u = s := by
  cases h with
  | lrRdD0 _ | lrRdD1 _ | neRdR _ => rfl
  | _ => simp [readInstrs] at hi

theorem exec_read_frame {i : Instr} {s t : State} {data : List Byte} (hi : i ∈ readInstrs)
    (h : exec i s = .next t) (ht : t.port = .responding (okCode :: data)) : t = { s with port := t.port } := by
  cases exec_answers h with
  | refused _ => rfl
  | raised _ c =>
    have hc : responseCode (causeCode c) = okCode := (List.cons.inj (Port.responding.inj ht)).1
    exact absurd hc (responseCode_causeCode_ne_ok c)
  | completed _ hc => rw [hc.eq_of_read hi]; rfl
  | status _ => rfl
  | cleared hc => simp [hc, readInstrs] at hi

/-! ### A read does not see the port it finds -/

/-- The body of a command neither looks at the port nor writes it. -/
def IgnoresPort (body : State → Except Cause (State × List Byte)) : Prop :=
  ∀ (s : State) (p : Port), body { s with port := p } = (body s).map fun r => ({ r.1 with port := p }, r.2)

/-- The answer overwrites the port, so a command whose body ignores it answers the same from any port. -/
theorem IgnoresPort.command_with_port {body : State → Except Cause (State × List Byte)} (hb : IgnoresPort body)
    (s : State) (p : Port) : command body { s with port := p } = command body s := by
  unfold command
  rw [hb s p]
  rcases body s with c | ⟨u, data⟩ <;> rfl

theorem lrRdD0Body_ignoresPort : IgnoresPort lrRdD0Body := fun s p => by
  unfold lrRdD0Body
  cases assertElse s.dV .resultInvalid <;> rfl

theorem lrRdD1Body_ignoresPort : IgnoresPort lrRdD1Body := fun s p => by
  unfold lrRdD1Body
  cases assertElse s.dV .resultInvalid <;> rfl

theorem neRdRBody_ignoresPort : IgnoresPort neRdRBody := fun s p => by
  unfold neRdRBody
  cases assertElse s.rV .resultInvalid <;> rfl

theorem exec_read_with_port {i : Instr} (hi : i ∈ readInstrs) (s : State) (p : Port) :
    exec i { s with port := p } = exec i s := by
  cases i with
  | lrRdD0 => exact lrRdD0Body_ignoresPort.command_with_port s p
  | lrRdD1 => exact lrRdD1Body_ignoresPort.command_with_port s p
  | neRdR => exact neRdRBody_ignoresPort.command_with_port s p
  | rdStatus => rfl
  | _ => simp [readInstrs] at hi

/-! ### The obligation -/

/-- Settles O27: the read leaves all but the port, and the repeated read does not see the port. -/
theorem readsHaveNoSideEffects : Obligations.ReadsHaveNoSideEffects := by
  intro i s t hi h ⟨data, ht⟩
  have hframe : t = { s with port := t.port } := exec_read_frame hi h ht
  refine ⟨hframe, ?_⟩
  calc exec i t = exec i { s with port := t.port } := congrArg (exec i) hframe
    _ = exec i s := exec_read_with_port hi s t.port
    _ = .next t := h

end Sys2Proof.Machine
end

section
/-! PROOFS. Encodings (spec/30_encoding.md): the decoder and the encoder are inverse to each other, the opcode byte fixes
format and length, and any command that does not decode answers F_ILLEGAL_CMD. -/

namespace Sys2Proof

/-! ### Scalar payloads (R84) -/

/-- Reading the 32 bytes of a scalar gives the scalar. -/
@[simp] theorem scalarOfPayload_toLe (x : Scalar) : scalarOfPayload (toLe Config.scalarBytes x.toNat) = x := by
  have hx : x.toNat % 256 ^ Config.scalarBytes = x.toNat := Nat.mod_eq_of_lt x.isLt
  rw [scalarOfPayload, fromLe_toLe, hx, BitVec.ofNat_toNat, BitVec.setWidth_eq]

/-- A payload of 32 bytes is spelled by the scalar read from it. -/
theorem toLe_scalarOfPayload {payload : List Byte} (h : payload.length = Config.scalarBytes) :
    toLe Config.scalarBytes (scalarOfPayload payload).toNat = payload := by
  have hlt : fromLe payload < 2 ^ 256 := by
    have hle := fromLe_lt payload
    rwa [h] at hle
  rw [scalarOfPayload, BitVec.toNat_ofNat, Nat.mod_eq_of_lt hlt, ← h, toLe_fromLe]

/-! ### An instruction is its opcode and its payload -/

@[simp] theorem buildInstr_instrPayload (i : Instr) : buildInstr (instrOpcode i) (instrPayload i) = i := by
  cases i with
  | lrLoadA x => exact congrArg Instr.lrLoadA (scalarOfPayload_toLe x)
  | neLoadSa x => exact congrArg Instr.neLoadSa (scalarOfPayload_toLe x)
  | neLoadSb x => exact congrArg Instr.neLoadSb (scalarOfPayload_toLe x)
  | _ => rfl

@[simp] theorem instrOpcode_buildInstr (o : Opcode) (payload : List Byte) :
    instrOpcode (buildInstr o payload) = o := by
  cases o <;> rfl

/-- A payload of the length its format requires is the built instruction's payload: none, the bytes of the scalar, or
the bytes of the point. -/
theorem instrPayload_buildInstr {o : Opcode} {payload : List Byte}
    (h : payload.length = payloadLength (opcodeFormat o)) : instrPayload (buildInstr o payload) = payload := by
  cases o with
  | lrLoadA | neLoadSa | neLoadSb => exact toLe_scalarOfPayload h
  | neLoadPa | neLoadPc => rfl
  | _ => exact (List.eq_nil_of_length_eq_zero h).symm

theorem wellFormed_buildInstr {o : Opcode} {payload : List Byte}
    (h : payload.length = payloadLength (opcodeFormat o)) : wellFormed (buildInstr o payload) = true := by
  cases o with
  | neLoadPa | neLoadPc => exact beq_iff_eq.mpr h
  | _ => rfl

/-! ### What the decoder answers, said once (R233, R234 item 2) -/

section Decode

variable {op : Byte} {o : Opcode} {payload : List Byte}

theorem decode_ok (ho : opcodeOfByte op = some o) (hl : payload.length = payloadLength (opcodeFormat o)) :
    decode (op :: payload) = .ok (buildInstr o payload) := by
  simp [decode, ho, hl]

theorem decode_reserved (ho : opcodeOfByte op = none) : decode (op :: payload) = .error (.reservedOpcode op) := by
  simp [decode, ho]

theorem decode_wrongLength (ho : opcodeOfByte op = some o)
    (hl : payload.length ≠ payloadLength (opcodeFormat o)) :
    decode (op :: payload) = .error (.wrongLength op payload.length) := by
  simp [decode, ho, hl]

/-- A byte string that decodes is an opcode byte and a payload of the length the opcode's format requires. -/
theorem decode_eq_ok {bs : List Byte} {i : Instr} (h : decode bs = .ok i) :
    ∃ o payload, bs = opcodeByte o :: payload ∧ payload.length = payloadLength (opcodeFormat o) ∧
      i = buildInstr o payload := by
  cases bs with
  | nil => cases h
  | cons op payload =>
    cases ho : opcodeOfByte op with
    | none => rw [decode_reserved ho] at h; cases h
    | some o =>
      by_cases hl : payload.length = payloadLength (opcodeFormat o)
      · rw [decode_ok ho hl] at h
        exact ⟨o, payload, by rw [opcodeByte_of_opcodeOfByte ho], hl, (Except.ok.inj h).symm⟩
      · rw [decode_wrongLength ho hl] at h; cases h

end Decode

theorem decode_encode {i : Instr} (h : wellFormed i = true) : decode (encode i) = .ok i := by
  rw [encode, decode_ok (opcodeOfByte_opcodeByte _) (instrPayload_length h), buildInstr_instrPayload]

/-- The opcode byte of a command that decodes is that of its instruction, and fixes the length. -/
theorem decode_commandBytes_eq_ok {c : Command} {i : Instr} (h : decode (commandBytes c) = .ok i) :
    opcodeOfByte c.op = some (instrOpcode i) ∧
      (commandBytes c).length = payloadLength (opcodeFormat (instrOpcode i)) + 1 := by
  obtain ⟨o, payload, hc, hl, rfl⟩ := decode_eq_ok h
  obtain ⟨hop, -⟩ := List.cons.inj hc
  rw [instrOpcode_buildInstr, hop, hc, List.length_cons, hl]
  exact ⟨opcodeOfByte_opcodeByte o, rfl⟩

/-! ### Bytes outside the map, and the lengths of the bytes in it (R82, R95) -/

/-- No opcode lies in a reserved range. -/
theorem opcodeOfByte_reserved {b : Byte}
    (hb : 0x05 ≤ b.toNat ∧ b.toNat ≤ 0x0f ∨ 0x16 ≤ b.toNat ∧ b.toNat ≤ 0x1f ∨
      0x21 ≤ b.toNat ∧ b.toNat ≤ 0x3e ∨ 0x40 ≤ b.toNat) : opcodeOfByte b = none := by
  cases ho : opcodeOfByte b with
  | none => rfl
  | some o =>
    rw [← opcodeByte_of_opcodeOfByte ho] at hb
    revert hb
    cases o <;> decide

end Sys2Proof

namespace Sys2Proof.Machine

/-! ### The dispatch (R233) -/

theorem perform_ok {c : Command} {i : Instr} (h : decode (commandBytes c) = .ok i) (s : State) :
    perform c s = exec i s := by
  rw [perform, h]

theorem perform_error {c : Command} {e : DecodeError} (h : decode (commandBytes c) = .error e) (s : State) :
    perform c s = illegalCommand s := by
  rw [perform, h]

/-! ### Illegal commands (R95, R96, R231) -/

/-- A reserved opcode and a wrong length are one event: the command does not decode. -/
theorem perform_illegal {c : Command} {s : State} {e : DecodeError} (hf : s.fault = false)
    (he : decode (commandBytes c) = .error e) :
    perform c s = .next (raiseFault .illegalCmd s) :=
  (perform_error he s).trans (illegalCommand_clear hf)

theorem perform_reserved {c : Command} {s : State} (hf : s.fault = false) (ho : opcodeOfByte c.op = none) :
    perform c s = .next (raiseFault .illegalCmd s) :=
  perform_illegal hf (decode_reserved ho)

/-- A command whose opcode byte is one of a format's bytes, but whose length is not the format's. -/
theorem perform_wrongLength {c : Command} {s : State} {f : Format} {bs : List Byte} (hf : s.fault = false)
    (hop : c.op ∈ bs) (hl : (commandBytes c).length ≠ 1 + payloadLength f)
    (hbs : ∀ b ∈ bs, (opcodeOfByte b).map opcodeFormat = some f) :
    perform c s = .next (raiseFault .illegalCmd s) := by
  obtain ⟨o, ho, rfl⟩ := Option.map_eq_some_iff.mp (hbs c.op hop)
  refine perform_illegal hf (decode_wrongLength ho fun h => hl ?_)
  rw [commandBytes, List.length_cons, h, Nat.add_comm]

/-! ### The obligations -/

/-- Settles O1: opcode map and payload forms are each read back. -/
theorem encodedInstructionDecodesBack : Obligations.EncodedInstructionDecodesBack := fun _ h => decode_encode h

/-- Settles O2: the bytes are an opcode byte and a payload of its length, which the built instruction gives back. -/
theorem decodedBytesAreTheirEncoding : Obligations.DecodedBytesAreTheirEncoding := by
  intro bs i h
  obtain ⟨o, payload, rfl, hl, rfl⟩ := decode_eq_ok h
  refine ⟨wellFormed_buildInstr hl, ?_⟩
  rw [encode, instrOpcode_buildInstr, instrPayload_buildInstr hl]

/-- Settles O3: the opcode byte names the opcode, and the opcode's format the length. -/
theorem opcodeFixesTheLength : Obligations.OpcodeFixesTheLength := by
  intro c d i j hi hj hop
  obtain ⟨hci, hli⟩ := decode_commandBytes_eq_ok hi
  obtain ⟨hdj, hlj⟩ := decode_commandBytes_eq_ok hj
  have ho : instrOpcode i = instrOpcode j := Option.some.inj (by rw [← hci, ← hdj, hop])
  exact ⟨by rw [hli, hlj, ho], ho⟩

/-- Settles O5: a reserved byte is outside the opcode map, so the command does not decode. -/
theorem reservedOpcodesFault : Obligations.ReservedOpcodesFault := by
  intro c s hf hb
  show perform c s = .next (raiseFault .illegalCmd s)
  exact perform_reserved hf (opcodeOfByte_reserved hb)

/-- Settles O6: each of the three lists holds the opcode bytes of one format; a command has at least its opcode byte. -/
theorem wrongLengthsFault : Obligations.WrongLengthsFault := by
  refine ⟨fun c s hf h => ?_, fun c => by simp [commandBytes]⟩
  show perform c s = .next (raiseFault .illegalCmd s)
  obtain ⟨hop, hl⟩ | ⟨hop, hl⟩ | ⟨hop, hl⟩ := h
  · exact perform_wrongLength (f := .n) hf hop hl (by decide)
  · exact perform_wrongLength (f := .s) hf hop hl (by decide)
  · exact perform_wrongLength (f := .p) hf hop hl (by decide)

/-- Settles O4: format N and S words are evaluated; a format-P payload is handed on whatever its bytes. -/
theorem opcodeMapWordsDecode : Obligations.OpcodeMapWordsDecode :=
  ⟨rfl, rfl, rfl, rfl, rfl, rfl, rfl, rfl, rfl, rfl, rfl,
    fun _ h => ⟨decode_ok (o := .neLoadPa) rfl h, decode_ok (o := .neLoadPc) rfl h⟩⟩

end Sys2Proof.Machine
end

section
/-! PROOFS. The command port (spec/30_encoding.md rules R80, R81): what one step answers from each port while `rst` is not
asserted. -/

namespace Sys2Proof.Machine

section Step

variable {s : State} (hr : (sampledPins s).rst = false)

include hr

theorem step_running {c : Command} (hp : s.port = .running c) : step s = perform c (consumeInput s) := by
  simp [step, stepWith, hr, hp]

theorem step_idle_offered {c : Command} (hp : s.port = .idle) (hc : (sampledPins s).cmd = some c) :
    step s = .next { consumeInput s with port := .running c } := by
  simp [step, stepWith, hr, hp, hc]

theorem step_idle_quiet (hp : s.port = .idle) (hc : (sampledPins s).cmd = none) :
    step s = .next (consumeInput s) := by
  simp [step, stepWith, hr, hp, hc]

theorem step_responding_taken {r : List Byte} (hp : s.port = .responding r)
    (hq : (sampledPins s).rspReady = true) : step s = .next { consumeInput s with port := .idle } := by
  simp [step, stepWith, hr, hp, hq]

theorem step_responding_held {r : List Byte} (hp : s.port = .responding r)
    (hq : (sampledPins s).rspReady = false) : step s = .next (consumeInput s) := by
  simp [step, stepWith, hr, hp, hq]

end Step

theorem busyPin_eq_false_iff {s : State} : busyPin s = false ↔ s.port = .idle := by
  unfold busyPin
  cases s.port <;> simp

theorem cmdReadyPin_eq_true_iff {s : State} : cmdReadyPin s = true ↔ busyPin s = false := by
  simp [cmdReadyPin]

/-! ### The obligations -/

/-- Settles O8: at a running port the step performs the command, and the dispatch goes by what its bytes decode to. -/
theorem stepRunsTheDecodedInstruction : Obligations.StepRunsTheDecodedInstruction := fun _ _ hp hr =>
  ⟨fun _ hi => (step_running hr hp).trans (perform_ok hi _),
    fun _ he => (step_running hr hp).trans (perform_error he _)⟩

/-- Settles O9: one equation of the step for each port and pin. -/
theorem portTakesOneCommandAtATime : Obligations.PortTakesOneCommandAtATime := fun _ hr =>
  ⟨fun _ => step_idle_offered hr, step_idle_quiet hr, fun _ => step_responding_taken hr,
    fun _ => step_responding_held hr, busyPin_eq_false_iff, cmdReadyPin_eq_true_iff⟩

end Sys2Proof.Machine
end

section
/-! PROOFS. The text form of a command (spec/30_encoding.md rule R98): the words of a written line are the mnemonic and the
payload's digits, and each is read back. -/

namespace Sys2Proof.Machine

/-! ### Hexadecimal digits -/

theorem hexValue_hexDigit {n : Nat} (h : n < 16) : hexValue (hexDigit n) = some n := by
  revert n
  decide

/-- Two digits a byte, high one first, give the byte back. -/
theorem parseHex_hexChars (bs : List Byte) : parseHex (hexChars bs) = some bs := by
  induction bs with
  | nil => rfl
  | cons b bs ih =>
    have hb : b.toNat < 256 := b.isLt
    have hcons : hexChars (b :: bs) = hexDigit (b.toNat / 16) :: hexDigit (b.toNat % 16) :: hexChars bs := rfl
    rw [hcons, parseHex, hexValue_hexDigit (by omega), hexValue_hexDigit (by omega), ih]
    dsimp only
    rw [Nat.div_add_mod, BitVec.ofNat_toNat, BitVec.setWidth_eq]

/-! ### Words of a line -/

/-- A character of a word of a command: it ends no word, begins no comment and is not in `=>`. -/
def isWordChar (c : Char) : Bool := c != ' ' && c != '#' && c != '='

theorem isWordChar_iff {c : Char} : isWordChar c = true ↔ c ≠ ' ' ∧ c ≠ '#' ∧ c ≠ '=' := by
  simp [isWordChar, and_assoc]

theorem hexDigit_isWordChar {n : Nat} (h : n < 16) : isWordChar (hexDigit n) = true := by
  revert n
  decide

theorem hexChars_isWordChar (bs : List Byte) : ∀ c ∈ hexChars bs, isWordChar c = true := by
  intro c hc
  obtain ⟨b, -, hb⟩ := List.mem_flatMap.mp hc
  have hlt : b.toNat < 256 := b.isLt
  obtain rfl | rfl : c = hexDigit (b.toNat / 16) ∨ c = hexDigit (b.toNat % 16) := by simpa using hb
  · exact hexDigit_isWordChar (by omega)
  · exact hexDigit_isWordChar (by omega)

theorem hexChars_ne_nil {bs : List Byte} (h : bs ≠ []) : hexChars bs ≠ [] := by
  cases bs with
  | nil => exact absurd rfl h
  | cons b bs => exact List.cons_ne_nil _ _

theorem mnemonic_isWordChar (o : Opcode) : ∀ c ∈ (mnemonic o).toList, isWordChar c = true :=
  List.all_eq_true.mp (by cases o <;> rfl)

theorem mnemonic_ne_nil (o : Opcode) : (mnemonic o).toList ≠ [] := by
  cases o <;> decide

/-- Mnemonics tell the opcodes apart. -/
theorem find_mnemonic (o : Opcode) :
    allOpcodes.find? (fun p => (mnemonic p).toList == (mnemonic o).toList) = some o := by
  cases o <;> rfl

/-- A line without `#` holds no comment. -/
theorem stripComment_eq_self {cs : List Char} (h : ∀ c ∈ cs, c ≠ '#') : stripComment cs = cs :=
  List.takeWhile_eq_self_iff.mpr fun c hc => bne_iff_ne.mpr (h c hc)

/-- Characters that are no space join the word being read. -/
theorem wordsFrom_append {w : List Char} (hw : ∀ c ∈ w, isWordChar c = true) (cs acc : List Char) :
    wordsFrom (w ++ cs) acc = wordsFrom cs (w.reverse ++ acc) := by
  induction w generalizing acc with
  | nil => rfl
  | cons c w ih =>
    obtain ⟨hc, hw⟩ := List.forall_mem_cons.mp hw
    rw [List.cons_append, wordsFrom, if_neg (isWordChar_iff.mp hc).1, ih hw]
    simp

theorem wordsFrom_nil {w : List Char} (hw : w ≠ []) : wordsFrom [] w.reverse = [w] := by
  simp [wordsFrom, hw]

theorem wordsFrom_space {w : List Char} (hw : w ≠ []) (cs : List Char) :
    wordsFrom (' ' :: cs) w.reverse = w :: wordsFrom cs [] := by
  simp [wordsFrom, hw]

/-- A word of a command's line: what `wordsFrom` gives back whole and `splitArrow` does not take for `=>`. -/
def IsWord (w : List Char) : Prop := w ≠ [] ∧ ∀ c ∈ w, isWordChar c = true

theorem wordsFrom_one {w : List Char} (h : IsWord w) : wordsFrom w [] = [w] := by
  obtain ⟨hne, hw⟩ := h
  simpa [wordsFrom_nil hne] using wordsFrom_append hw [] []

theorem wordsFrom_two {w v : List Char} (hw : IsWord w) (hv : IsWord v) :
    wordsFrom (w ++ ' ' :: v) [] = [w, v] := by
  rw [wordsFrom_append hw.2, List.append_nil, wordsFrom_space hw.1, wordsFrom_one hv]

theorem IsWord.ne_arrow {w : List Char} (h : IsWord w) : w ≠ "=>".toList := by
  rintro rfl
  exact absurd (h.2 '=' (by decide)) (by decide)

theorem IsWord.ne_hash {w : List Char} (h : IsWord w) : ∀ c ∈ w, c ≠ '#' :=
  fun c hc => (isWordChar_iff.mp (h.2 c hc)).2.1

/-- Words without `=>` are all command. -/
theorem splitArrow_of_isWord {ws : List (List Char)} (h : ∀ w ∈ ws, IsWord w) : splitArrow ws = (ws, none) := by
  induction ws with
  | nil => rfl
  | cons w ws ih =>
    obtain ⟨hw, hws⟩ := List.forall_mem_cons.mp h
    rw [splitArrow, if_neg hw.ne_arrow, ih hws]

theorem mnemonic_isWord (o : Opcode) : IsWord (mnemonic o).toList := ⟨mnemonic_ne_nil o, mnemonic_isWordChar o⟩

theorem hexChars_isWord {bs : List Byte} (h : bs ≠ []) : IsWord (hexChars bs) :=
  ⟨hexChars_ne_nil h, hexChars_isWordChar bs⟩

/-! ### A command and its line -/

/-- The mnemonic names the opcode, the digits spell the payload, and the decoder reads both back. -/
theorem parseCommand_mnemonic_hexChars {i : Instr} (h : wellFormed i = true) :
    parseCommand (mnemonic (instrOpcode i)).toList (hexChars (instrPayload i)) = some i := by
  have hd : decode (opcodeByte (instrOpcode i) :: instrPayload i) = .ok i := decode_encode h
  rw [parseCommand, find_mnemonic, parseHex_hexChars]
  simp [hd, Except.toOption]

/-- A line of one word is a command without payload. -/
theorem parseLine_one {w : List Char} (h : IsWord w) :
    parseLine w = (parseCommand w []).map fun i => some ⟨i, none⟩ := by
  have hs : splitArrow [w] = ([w], none) := splitArrow_of_isWord (by simpa using h)
  rw [parseLine, stripComment_eq_self h.ne_hash, wordsFrom_one h]
  simp only [parseWords, hs]
  cases parseCommand w [] <;> rfl

/-- A line of two words is a command with its payload's digits. -/
theorem parseLine_two {w v : List Char} (hw : IsWord w) (hv : IsWord v) :
    parseLine (w ++ ' ' :: v) = (parseCommand w v).map fun i => some ⟨i, none⟩ := by
  have hs : splitArrow [w, v] = ([w, v], none) := splitArrow_of_isWord (by simpa using ⟨hw, hv⟩)
  have hc : ∀ c ∈ w ++ ' ' :: v, c ≠ '#' := by
    intro c hc
    simp only [List.mem_append, List.mem_cons] at hc
    obtain hc | rfl | hc := hc
    · exact hw.ne_hash c hc
    · decide
    · exact hv.ne_hash c hc
  rw [parseLine, stripComment_eq_self hc, wordsFrom_two hw hv]
  simp only [parseWords, hs]
  cases parseCommand w v <;> rfl

/-- The line of a command without payload is its mnemonic alone. -/
theorem assemblyLine_of_nil {i : Instr} (h : instrPayload i = []) :
    assemblyLine i = (mnemonic (instrOpcode i)).toList := by
  simp [assemblyLine, h]

theorem assemblyLine_of_payload {i : Instr} (h : instrPayload i ≠ []) :
    assemblyLine i = (mnemonic (instrOpcode i)).toList ++ ' ' :: hexChars (instrPayload i) := by
  simp [assemblyLine, h]

/-! ### The obligation -/

/-- Settles O7: the line is one word or two, according to the payload, and the words are read back. -/
theorem assemblyLineReadsBack : Obligations.AssemblyLineReadsBack := by
  intro i h
  have hcmd := parseCommand_mnemonic_hexChars h
  by_cases hp : instrPayload i = []
  · rw [hp] at hcmd
    rw [assemblyLine_of_nil hp, parseLine_one (mnemonic_isWord _), show [] = hexChars [] from rfl, hcmd]
    rfl
  · rw [assemblyLine_of_payload hp, parseLine_two (mnemonic_isWord _) (hexChars_isWord hp), hcmd]
    rfl

end Sys2Proof.Machine
end

section
/-! PROOFS. One pass of the reducer (spec/40_lattice_reducer.md rules R115 to R119): the rounded quotient is a nearest
integer, the candidate row is not longer than the row it replaces, and an exchange keeps the loop's invariants. -/

namespace Sys2Proof.Machine

/-! ### The nearest integer (R118) -/

/-- What another multiple leaves, in terms of what the rounded quotient leaves. -/
theorem sub_mul_eq_remainder_add (p n m : Int) : p - m * n = (p - nearest p n * n) + (nearest p n - m) * n := by
  ring

/-- A larger multiple leaves more, on the negative side. -/
theorem natAbs_nearest_lt_of_nearest_lt {p n m : Int} (hn : 0 < n) (hm : nearest p n < m) :
    (p - nearest p n * n).natAbs < (p - m * n).natAbs := by
  have hd : (nearest p n - m) * n ≤ -n := by nlinarith
  have hb := nearest_bounds p n hn
  rw [sub_mul_eq_remainder_add p n m]
  omega

/-- A smaller multiple leaves no less; it may be equally near. -/
theorem natAbs_nearest_le_of_lt_nearest {p n m : Int} (hn : 0 < n) (hm : m < nearest p n) :
    (p - nearest p n * n).natAbs ≤ (p - m * n).natAbs := by
  have hd : n ≤ (nearest p n - m) * n := by nlinarith
  have hb := nearest_bounds p n hn
  rw [sub_mul_eq_remainder_add p n m]
  omega

theorem natAbs_nearest_le (p n m : Int) (hn : 0 < n) : (p - nearest p n * n).natAbs ≤ (p - m * n).natAbs := by
  obtain hm | rfl | hm := lt_trichotomy m (nearest p n)
  · exact natAbs_nearest_le_of_lt_nearest hn hm
  · exact le_rfl
  · exact (natAbs_nearest_lt_of_nearest_lt hn hm).le

/-- In a tie the quotient is half a divisor above. -/
theorem nearest_of_tie {p n : Int} (h : (2 * p + n) % (2 * n) = 0) : 2 * p + n = 2 * nearest p n * n := by
  calc 2 * p + n = 2 * n * ((2 * p + n) / (2 * n)) := (Int.mul_ediv_cancel' (Int.dvd_of_emod_eq_zero h)).symm
    _ = 2 * nearest p n * n := by rw [nearest]; ring

/-! ### The candidate row (R115, R119 item 4) -/

theorem rowNorm_sub_mul (u v : Row) (t : Int) :
    rowNorm ⟨u.x - t * v.x, u.y - t * v.y⟩ = rowNorm u - 2 * t * rowInner u v + t ^ 2 * rowNorm v := by
  simp only [rowNorm, rowInner]
  ring

/-- The rounded quotient does no worse than `0`. -/
theorem rowNorm_reducedRow_le {u v : Row} (hv : 0 < rowNorm v) : rowNorm (reducedRow u v) ≤ rowNorm u := by
  obtain ⟨hlo, hhi⟩ := nearest_bounds (rowInner u v) (rowNorm v) hv
  rw [rowNorm_reducedRow]
  generalize nearest (rowInner u v) (rowNorm v) = q at hlo hhi ⊢
  suffices hq : 0 ≤ q * (2 * rowInner u v - q * rowNorm v) by linarith
  obtain hneg | rfl | hpos := lt_trichotomy q 0
  · refine mul_nonneg_of_nonpos_of_nonpos hneg.le ?_
    nlinarith
  · simp
  · refine mul_nonneg hpos.le ?_
    nlinarith

/-- On exit the inner product is at most half the shorter row's norm (R116). -/
theorem rowInner_reducedRow_bounds {u v : Row} (hv : 0 < rowNorm v) :
    -rowNorm v ≤ 2 * rowInner (reducedRow u v) v ∧ 2 * rowInner (reducedRow u v) v ≤ rowNorm v := by
  obtain ⟨hlo, hhi⟩ := nearest_bounds (rowInner u v) (rowNorm v) hv
  rw [rowInner_reducedRow]
  exact ⟨hlo, hhi.le⟩

theorem natAbs_det_reducedRow (u v : Row) :
    (v.x * (reducedRow u v).y - v.y * (reducedRow u v).x).natAbs = (u.x * v.y - u.y * v.x).natAbs := by
  rw [← det_reducedRow u v, ← Int.natAbs_neg]
  congr 1
  ring

/-! ### The lattice (R110, R119 item 1) -/

theorem inLattice_reducedRow {a : Nat} {u v : Row} (hu : InLattice a u) (hv : InLattice a v) :
    InLattice a (reducedRow u v) := by
  have hcomb : (reducedRow u v).x - a * (reducedRow u v).y =
      (u.x - a * u.y) - nearest (rowInner u v) (rowNorm v) * (v.x - a * v.y) := by
    simp only [reducedRow]
    ring
  rw [InLattice, hcomb]
  exact dvd_sub hu (hv.mul_left _)

/-- The determinant of two lattice rows is a multiple of ELL. -/
theorem InLattice.dvd_det {a : Nat} {u v : Row} (hu : InLattice a u) (hv : InLattice a v) :
    (Config.ell : Int) ∣ u.x * v.y - u.y * v.x := by
  have hcomb : u.x * v.y - u.y * v.x = (u.x - a * u.y) * v.y - u.y * (v.x - a * v.y) := by ring
  rw [hcomb]
  exact dvd_sub (hu.mul_right _) (hv.mul_left _)

/-! ### The invariants at the start and over an exchange (R119) -/

theorem rowNorm_start (a : Nat) : rowNorm ⟨a, 1⟩ = (a : Int) * a + 1 := rfl

theorem rowsSound_start {a : Nat} (ha : a < Config.ell) : RowsSound a ⟨Config.ell, 0⟩ ⟨a, 1⟩ where
  u_inLattice := by simp [InLattice]
  v_inLattice := by simp [InLattice]
  determinant := by simp
  order := by
    have ha' : (a : Int) + 1 ≤ Config.ell := by exact_mod_cast ha
    have h0 : (0 : Int) ≤ a := a.cast_nonneg
    simp only [rowNorm]
    nlinarith
  bound := by simp [rowNorm]

namespace RowsSound

variable {a : Nat} {u v : Row}

/-- Two rows of determinant ±ELL cannot hold the zero row: the identity of Lagrange (R119 item 2). -/
theorem one_le_rowNorm (h : RowsSound a u v) : 1 ≤ rowNorm v := by
  have hdet : u.x * v.y - u.y * v.x ≠ 0 := by
    rw [← Int.natAbs_ne_zero, h.determinant]
    exact Config.ell_pos.ne'
  have hlagrange := rowNorm_mul_sub_inner_sq u v
  by_contra hlt
  have hzero : rowNorm v = 0 := by have := rowNorm_nonneg v; omega
  rw [hzero] at hlagrange
  have hpos : 0 < (u.x * v.y - u.y * v.x) ^ 2 := by positivity
  have hsq := sq_nonneg (rowInner u v)
  omega

theorem exchange (h : RowsSound a u v) (hr : rowNorm (reducedRow u v) < rowNorm v) :
    RowsSound a v (reducedRow u v) where
  u_inLattice := h.v_inLattice
  v_inLattice := inLattice_reducedRow h.u_inLattice h.v_inLattice
  determinant := (natAbs_det_reducedRow u v).trans h.determinant
  order := hr.le
  bound := h.order.trans h.bound

end RowsSound

/-! ### The obligations -/

/-- Settles O39: the remainder lies in `[−n/2, n/2)`, so every other multiple is at least as far, a larger one farther. -/
theorem nearestRoundsHalfUp : Obligations.NearestRoundsHalfUp := by
  refine ⟨fun p n hn => ⟨?_, fun m => natAbs_nearest_le p n m hn, fun m hm => ?_⟩,
    by decide, by decide, by decide, by decide, fun u v _ htie => ?_⟩
  · rw [nearest, Int.fdiv_eq_ediv_of_nonneg _ (by omega)]
  · by_contra hlt
    exact absurd hm (natAbs_nearest_lt_of_nearest_lt hn (not_le.mp hlt)).ne'
  · have hq := nearest_of_tie htie
    rw [rowNorm_sub_mul, rowNorm_reducedRow]
    linear_combination hq

/-- Settles O40: rows of determinant ±ELL are not zero, and the exchange changes the determinant's sign only. -/
theorem reducerLoopKeepsItsInvariants : Obligations.ReducerLoopKeepsItsInvariants :=
  ⟨fun _ => rowsSound_start, fun _ _ _ h =>
    ⟨h.one_le_rowNorm, rowNorm_reducedRow_le h.one_le_rowNorm, h.exchange⟩⟩

end Sys2Proof.Machine
end

section
/-! PROOFS. The loop of the reducer (spec/40_lattice_reducer.md rules R116, R117, R119 item 5): it leaves by its exit test,
with a reduced basis in the sense of Lagrange and Gauss; what that says of the short vector (R110, R121, R125). -/

namespace Sys2Proof.Machine

/-! ### One pass of the loop (R116) -/

theorem reduceRows_exit {n : Nat} {u v : Row} (h : rowNorm v ≤ rowNorm (reducedRow u v)) :
    reduceRows (n + 1) u v = v := if_pos h

theorem reduceRows_exchange {n : Nat} {u v : Row} (h : rowNorm (reducedRow u v) < rowNorm v) :
    reduceRows (n + 1) u v = reduceRows n v (reducedRow u v) := if_neg (not_le.mpr h)

/-! ### Termination (R119 item 5): the shorter row's norm bounds the passes -/

/-- More passes than the norm change nothing. -/
theorem reduceRows_eq_of_le {n m : Nat} {u v : Row} (hn : rowNorm v < n) (hm : n ≤ m) :
    reduceRows m u v = reduceRows n u v := by
  induction n generalizing m u v with
  | zero => exact absurd hn (not_lt.mpr (rowNorm_nonneg v))
  | succ n ih =>
    obtain ⟨m, rfl⟩ : ∃ k, m = k + 1 := ⟨m - 1, by omega⟩
    obtain hexit | hexch := le_or_gt (rowNorm v) (rowNorm (reducedRow u v))
    · rw [reduceRows_exit hexit, reduceRows_exit hexit]
    · rw [reduceRows_exchange hexch, reduceRows_exchange hexch]
      exact ih (by omega) (by omega)

/-- From sound rows the loop leaves by its exit test. -/
theorem RowsSound.reduceRows_exits {a n : Nat} {u v : Row} (h : RowsSound a u v) (hn : rowNorm v < n) :
    ∃ u', RowsSound a u' (reduceRows n u v) ∧
      rowNorm (reduceRows n u v) ≤ rowNorm (reducedRow u' (reduceRows n u v)) := by
  induction n generalizing u v with
  | zero => exact absurd hn (not_lt.mpr (rowNorm_nonneg v))
  | succ n ih =>
    obtain hexit | hexch := le_or_gt (rowNorm v) (rowNorm (reducedRow u v))
    · rw [reduceRows_exit hexit]
      exact ⟨u, h, hexit⟩
    · rw [reduceRows_exchange hexch]
      exact ih (h.exchange hexch) (by omega)

theorem rowNorm_start_lt_reduceFuel (a : Nat) : rowNorm ⟨a, 1⟩ < reduceFuel a := by
  rw [rowNorm_start, reduceFuel]
  push_cast
  omega

/-! ### Results after one or two passes (R125) -/

theorem fsv_eq_of_first_exit {a : Nat} (h : rowNorm ⟨a, 1⟩ ≤ rowNorm (reducedRow ⟨Config.ell, 0⟩ ⟨a, 1⟩)) :
    fsv a = ⟨a, 1⟩ := reduceRows_exit h

theorem fsv_eq_of_second_exit {a : Nat} {r : Row} (hr : reducedRow ⟨Config.ell, 0⟩ ⟨a, 1⟩ = r)
    (hexch : rowNorm r < rowNorm ⟨a, 1⟩) (hexit : rowNorm r ≤ rowNorm (reducedRow ⟨a, 1⟩ r)) : fsv a = r := by
  subst hr
  exact (reduceRows_exchange hexch).trans (reduceRows_exit hexit)

/-- The first candidate row, from its quotient. -/
theorem reducedRow_start {a : Nat} {q : Int} (hq : nearest (Config.ell * a) (a * a + 1) = q) :
    reducedRow ⟨Config.ell, 0⟩ ⟨a, 1⟩ = ⟨Config.ell - q * a, -q⟩ := by
  simp [reducedRow, rowInner, rowNorm, hq]

/-- The first quotient of a small operand exceeds the operand. -/
theorem lt_nearest_start {a : Nat} (h1 : 1 ≤ a) (h2 : a ≤ 2 ^ 125) :
    (a : Int) < nearest (Config.ell * a) (a * a + 1) := by
  have h1' : (1 : Int) ≤ a := by exact_mod_cast h1
  have h2' : (a : Int) ≤ 2 ^ 125 := by exact_mod_cast h2
  have hell : (2 : Int) ^ 252 ≤ Config.ell := by norm_num [Config.ell]
  obtain ⟨-, hhi⟩ := nearest_bounds (Config.ell * a) (a * a + 1) (by positivity)
  generalize nearest (Config.ell * a) (a * a + 1) = q at hhi ⊢
  by_contra hle
  have hqn : q * ((a : Int) * a + 1) ≤ a * (a * a + 1) := by nlinarith
  have hsq : (a : Int) * a ≤ 2 ^ 250 := by nlinarith
  have hcube : (2 * (a : Int) + 1) * (a * a + 1) ≤ 6 * 2 ^ 250 * a := by nlinarith
  nlinarith

theorem fsv_small {a : Nat} (h1 : 1 ≤ a) (h2 : a ≤ 2 ^ 125) : fsv a = ⟨a, 1⟩ := by
  have hq := lt_nearest_start h1 h2
  refine fsv_eq_of_first_exit ?_
  rw [reducedRow_start rfl, rowNorm_start, rowNorm]
  nlinarith

theorem fsv_zero : fsv 0 = ⟨0, 1⟩ := by
  refine fsv_eq_of_first_exit ?_
  rw [reducedRow_start (q := 0) (by simp [nearest])]
  norm_num [rowNorm, Config.ell]

/-- At `2^126` the first quotient is the operand, and the candidate row is longer by ELL's distance from `2^252`. -/
theorem fsv_two_pow_126 : fsv (2 ^ 126) = ⟨2 ^ 126, 1⟩ := by
  have hr : reducedRow ⟨Config.ell, 0⟩ ⟨(2 ^ 126 : Nat), 1⟩ = ⟨Config.ell - 2 ^ 252, -2 ^ 126⟩ := by
    norm_num [reducedRow, rowInner, rowNorm, nearest, Config.ell]
  refine (fsv_eq_of_first_exit ?_).trans (by norm_num)
  rw [hr]
  norm_num [rowNorm, Config.ell]

/-- The first quotient is 1; the second candidate row is longer than `(1, −1)`. -/
theorem fsv_ell_sub_one : fsv (Config.ell - 1) = ⟨1, -1⟩ := by
  have hr : reducedRow ⟨Config.ell, 0⟩ ⟨(Config.ell - 1 : Nat), 1⟩ = ⟨1, -1⟩ := by
    norm_num [reducedRow, rowInner, rowNorm, nearest, Config.ell]
  refine fsv_eq_of_second_exit hr ?_ ?_
  · norm_num [rowNorm, Config.ell]
  · norm_num [reducedRow, rowInner, rowNorm, nearest, Config.ell]

/-- The first quotient is 1; the second candidate row is longer than `(2, −1)`. -/
theorem fsv_ell_sub_two : fsv (Config.ell - 2) = ⟨2, -1⟩ := by
  have hr : reducedRow ⟨Config.ell, 0⟩ ⟨(Config.ell - 2 : Nat), 1⟩ = ⟨2, -1⟩ := by
    norm_num [reducedRow, rowInner, rowNorm, nearest, Config.ell]
  refine fsv_eq_of_second_exit hr ?_ ?_
  · norm_num [rowNorm, Config.ell]
  · norm_num [reducedRow, rowInner, rowNorm, nearest, Config.ell]

/-! ### The exit: a reduced basis (R116) -/

/-- A basis of the lattice with determinant ±ELL, reduced in the sense of Lagrange and Gauss. -/
structure ReducedBasis (a : Nat) (v r : Row) : Prop where
  v_inLattice : InLattice a v
  r_inLattice : InLattice a r
  determinant : (v.x * r.y - v.y * r.x).natAbs = Config.ell
  order : rowNorm v ≤ rowNorm r
  inner_ge : -rowNorm v ≤ 2 * rowInner r v
  inner_le : 2 * rowInner r v ≤ rowNorm v
  v_pos : 1 ≤ rowNorm v

theorem RowsSound.reducedBasis {a : Nat} {u v : Row} (h : RowsSound a u v)
    (hexit : rowNorm v ≤ rowNorm (reducedRow u v)) : ReducedBasis a v (reducedRow u v) where
  v_inLattice := h.v_inLattice
  r_inLattice := inLattice_reducedRow h.u_inLattice h.v_inLattice
  determinant := (natAbs_det_reducedRow u v).trans h.determinant
  order := hexit
  inner_ge := (rowInner_reducedRow_bounds h.one_le_rowNorm).1
  inner_le := (rowInner_reducedRow_bounds h.one_le_rowNorm).2
  v_pos := h.one_le_rowNorm

/-- The short vector and the row discarded last (R117). -/
theorem fsv_reducedBasis {a : Nat} (ha : a < Config.ell) : ∃ r, ReducedBasis a (fsv a) r := by
  obtain ⟨u, hu, hexit⟩ := (rowsSound_start ha).reduceRows_exits (rowNorm_start_lt_reduceFuel a)
  exact ⟨_, hu.reducedBasis hexit⟩

theorem rowNorm_comb (v r : Row) (s t : Int) :
    rowNorm ⟨s * v.x + t * r.x, s * v.y + t * r.y⟩ =
      s ^ 2 * rowNorm v + s * t * (2 * rowInner r v) + t ^ 2 * rowNorm r := by
  simp only [rowNorm, rowInner]
  ring

/-- `s² + t²` exceeds `|s·t|` except at the origin. -/
theorem abs_mul_lt_sq_add_sq {s t : Int} (h : s ≠ 0 ∨ t ≠ 0) : |s * t| < s ^ 2 + t ^ 2 := by
  have hpos : 0 < s ^ 2 + t ^ 2 := by
    obtain hs | ht := h
    · positivity
    · positivity
  have hs := sq_nonneg (s - t)
  have ht := sq_nonneg (s + t)
  rw [abs_lt]
  constructor <;> nlinarith

/-- A component is no longer than its row. -/
theorem natAbs_lt_of_rowNorm_lt {w : Row} {z : Int} (hw : rowNorm w < 2 ^ 254) (hz : z * z ≤ rowNorm w) :
    z.natAbs < 2 ^ 127 := by
  refine Int.natAbs_lt_iff_sq_lt (b := 2 ^ 127).mpr ?_
  linarith

namespace ReducedBasis

variable {a : Nat} {v r : Row}

theorem det_ne_zero (h : ReducedBasis a v r) : v.x * r.y - v.y * r.x ≠ 0 := by
  rw [← Int.natAbs_ne_zero, h.determinant]
  exact Config.ell_pos.ne'

/-- `N(v) ≤ (2/√3)·ELL`, by the identity of Lagrange (R121). -/
theorem rowNorm_sq_le (h : ReducedBasis a v r) : 3 * rowNorm v ^ 2 ≤ 4 * (Config.ell : Int) ^ 2 := by
  have hlagrange := rowNorm_mul_sub_inner_sq r v
  have hdet : (r.x * v.y - r.y * v.x) ^ 2 = (Config.ell : Int) ^ 2 := by
    rw [← h.determinant, Int.natAbs_sq]
    ring
  have hinner : (2 * rowInner r v) ^ 2 ≤ rowNorm v ^ 2 := sq_le_sq' h.inner_ge h.inner_le
  have hmul : rowNorm v * rowNorm v ≤ rowNorm r * rowNorm v :=
    mul_le_mul_of_nonneg_right h.order (rowNorm_nonneg v)
  nlinarith

theorem rowNorm_lt (h : ReducedBasis a v r) : rowNorm v < 2 ^ 254 := by
  have hsq := h.rowNorm_sq_le
  have hell : 4 * (Config.ell : Int) ^ 2 < 3 * (2 ^ 254) ^ 2 := by norm_num [Config.ell]
  exact lt_of_pow_lt_pow_left₀ 2 (by norm_num) (by linarith)

theorem natAbs_x_lt (h : ReducedBasis a v r) : v.x.natAbs < 2 ^ 127 :=
  natAbs_lt_of_rowNorm_lt h.rowNorm_lt (by rw [rowNorm]; linarith [mul_self_nonneg v.y])

theorem natAbs_y_lt (h : ReducedBasis a v r) : v.y.natAbs < 2 ^ 127 :=
  natAbs_lt_of_rowNorm_lt h.rowNorm_lt (by rw [rowNorm]; linarith [mul_self_nonneg v.x])

/-- A row `(x, 0)` of the lattice is a multiple of ELL, and no such row is short enough (R121 item 2). -/
theorem y_ne_zero (h : ReducedBasis a v r) : v.y ≠ 0 := by
  intro hy
  have hdvd : Config.ell ∣ v.x.natAbs := by
    simpa [InLattice, hy, Int.natCast_dvd] using h.v_inLattice
  have hx : v.x = 0 := by
    have hlt : v.x.natAbs < Config.ell := h.natAbs_x_lt.trans (by norm_num [Config.ell])
    exact Int.natAbs_eq_zero.mp (Nat.eq_zero_of_dvd_of_lt hdvd hlt)
  have hpos := h.v_pos
  simp [rowNorm, hx, hy] at hpos

/-- The two rows generate the lattice: Cramer's rule, the determinants being multiples of ELL. -/
theorem exists_comb (h : ReducedBasis a v r) {w : Row} (hw : InLattice a w) :
    ∃ s t : Int, w = ⟨s * v.x + t * r.x, s * v.y + t * r.y⟩ := by
  have hdvd {z : Int} (hz : (Config.ell : Int) ∣ z) : v.x * r.y - v.y * r.x ∣ z := by
    rwa [← h.determinant, Int.natAbs_dvd] at hz
  obtain ⟨s, hs⟩ := hdvd (hw.dvd_det h.r_inLattice)
  obtain ⟨t, ht⟩ := hdvd (h.v_inLattice.dvd_det hw)
  have hx : w.x = s * v.x + t * r.x := mul_left_cancel₀ h.det_ne_zero (by linear_combination v.x * hs + r.x * ht)
  have hy : w.y = s * v.y + t * r.y := mul_left_cancel₀ h.det_ne_zero (by linear_combination v.y * hs + r.y * ht)
  exact ⟨s, t, by rw [← hx, ← hy]⟩

/-- No combination but the zero row is shorter than `v`. -/
theorem rowNorm_le_comb (h : ReducedBasis a v r) {s t : Int} (hst : s ≠ 0 ∨ t ≠ 0) :
    rowNorm v ≤ rowNorm ⟨s * v.x + t * r.x, s * v.y + t * r.y⟩ := by
  have hinner : |s * t * (2 * rowInner r v)| ≤ |s * t| * rowNorm v := by
    rw [abs_mul]
    exact mul_le_mul_of_nonneg_left (abs_le.mpr ⟨h.inner_ge, h.inner_le⟩) (abs_nonneg _)
  have hr : t ^ 2 * rowNorm v ≤ t ^ 2 * rowNorm r := mul_le_mul_of_nonneg_left h.order (sq_nonneg t)
  have hform : 1 ≤ s ^ 2 + t ^ 2 - |s * t| := by linarith [Int.add_one_le_of_lt (abs_mul_lt_sq_add_sq hst)]
  calc rowNorm v ≤ (s ^ 2 + t ^ 2 - |s * t|) * rowNorm v := le_mul_of_one_le_left (rowNorm_nonneg v) hform
    _ ≤ s ^ 2 * rowNorm v + s * t * (2 * rowInner r v) + t ^ 2 * rowNorm r := by
      linarith [neg_le_of_abs_le hinner]
    _ = _ := (rowNorm_comb v r s t).symm

theorem rowNorm_le (h : ReducedBasis a v r) {w : Row} (hw : InLattice a w) (hne : w ≠ ⟨0, 0⟩) :
    rowNorm v ≤ rowNorm w := by
  obtain ⟨s, t, rfl⟩ := h.exists_comb hw
  refine h.rowNorm_le_comb ?_
  by_contra hst
  obtain ⟨rfl, rfl⟩ : s = 0 ∧ t = 0 := by simpa [not_or] using hst
  simp at hne

end ReducedBasis

/-! ### The obligations -/

/-- Settles O41: every exchange shortens the shorter row, whose norm at the start is below the bound on passes. -/
theorem reducerLoopEndsByItsExitTest : Obligations.ReducerLoopEndsByItsExitTest := fun a ha =>
  ⟨fun _ hn => reduceRows_eq_of_le (rowNorm_start_lt_reduceFuel a) hn,
    (rowsSound_start ha).reduceRows_exits (rowNorm_start_lt_reduceFuel a)⟩

/-- Settles O42: the bound of a reduced basis; a lattice row with second component zero would exceed it. -/
theorem shortVectorMeetsTheContract : Obligations.ShortVectorMeetsTheContract := by
  refine ⟨fun a ha => ?_, fsv_zero⟩
  obtain ⟨r, h⟩ := fsv_reducedBasis ha
  exact ⟨h.v_inLattice, h.natAbs_x_lt, h.natAbs_y_lt, h.y_ne_zero⟩

/-- Settles O43: a lattice vector is a combination of the reduced basis, and no combination but zero is shorter. -/
theorem shortVectorIsShortest : Obligations.ShortVectorIsShortest := by
  intro a ha
  obtain ⟨r, h⟩ := fsv_reducedBasis ha
  exact ⟨h.v_inLattice, fun h0 => h.y_ne_zero (by rw [h0]), fun _ => h.rowNorm_le⟩

/-- Settles O44: the first quotient exceeds a small operand; for the other three operands the one or two passes are
evaluated. -/
theorem smallAndLargeOperandsReduceAsStated : Obligations.SmallAndLargeOperandsReduceAsStated :=
  ⟨fun _ => fsv_small, fsv_two_pow_126, fsv_ell_sub_one, fsv_ell_sub_two⟩

end Sys2Proof.Machine
end

section
/-! PROOFS. The commands of the reducer (spec/40_lattice_reducer.md rules R111, R112, R122, R123) and the SignedInteger
they hand to the host (R22, R88, R120). -/

namespace Sys2Proof.Machine

/-! ### The SignedInteger and its bytes (R22, R88, R120) -/

/-- `neg` stands above the 129 bits of `mag` (R22). -/
theorem signedImage_toNat (d : SignedInt) :
    (signedImage d).toNat = d.mag.toNat + (if d.neg then 2 ^ 129 else 0) := by
  have hshift : (signedImage d).toNat = d.neg.toNat <<< 129 + d.mag.toNat := by
    rw [signedImage, BitVec.toNat_append, BitVec.toNat_ofBool, Nat.shiftLeft_add_eq_or_of_lt d.mag.isLt]
  rw [hshift]
  cases d.neg
  · simp
  · simp [Nat.add_comm]

/-- 17 bytes hold the 130-bit image. -/
theorem fromLe_signedBytes (d : SignedInt) : fromLe (signedBytes d) = (signedImage d).toNat := by
  have hlt := (signedImage d).isLt
  rw [signedBytes, fromLe_toLe, BitVec.toNat_setWidth]
  omega

theorem sign_magnitude_of_toSi {x : Int} {d : SignedInt} (h : toSi x = .ok d) :
    signedVal d = x ∧ d.mag.toNat = x.natAbs ∧ (d.neg = true ↔ x < 0) := by
  obtain ⟨hx, rfl⟩ := toSi_eq_ok h
  have hmag : (BitVec.ofNat 129 x.natAbs).toNat = x.natAbs := Nat.mod_eq_of_lt hx
  refine ⟨?_, hmag, decide_eq_true_iff⟩
  rw [signedVal, hmag]
  by_cases hneg : x < 0
  · simp only [hneg, decide_true, if_true]
    omega
  · simp only [hneg, decide_false, Bool.false_eq_true, if_false]
    omega

/-- A canonical operand's short vector passes both checks of `to_si` (R121 item 1). -/
theorem decompose_canonical {a : Nat} (ha : a < Config.ell) : ∃ x y, decompose a = .ok (x, y) := by
  obtain ⟨r, h⟩ := fsv_reducedBasis ha
  have hx := toSi_ok (h.natAbs_x_lt.trans (by norm_num))
  have hy := toSi_ok (h.natAbs_y_lt.trans (by norm_num))
  exact ⟨_, _, by rw [decompose, hx, hy]⟩

/-! ### The bodies of the commands -/

section Bodies

variable {s : State}

theorem lrLoadABody_ok {x : Scalar} (h : x.toNat < Config.ell) : lrLoadABody x s = .ok (writeA x s, []) := by
  rw [lrLoadABody, scalarOperand_ok h]

theorem lrLoadABody_error {x : Scalar} (h : Config.ell ≤ x.toNat) : lrLoadABody x s = .error .noncanonical := by
  rw [lrLoadABody, scalarOperand_error h]

theorem lrStartBody_ok {x y : SignedInt} (ha : s.aV = true) (hd : decompose s.a.toNat = .ok (x, y)) :
    lrStartBody s = .ok (writeD x y s, []) := by
  rw [lrStartBody, reducerOperandValid, assertElse_true ha]
  simp only [hd]

theorem lrStartBody_error (ha : s.aV = false) : lrStartBody s = .error .operandMissing := by
  rw [lrStartBody, reducerOperandValid, assertElse_false ha]

theorem lrRdD0Body_ok (hd : s.dV = true) : lrRdD0Body s = .ok (s, signedBytes s.d0) := by
  rw [lrRdD0Body, assertElse_true hd]

theorem lrRdD0Body_error (hd : s.dV = false) : lrRdD0Body s = .error .resultInvalid := by
  rw [lrRdD0Body, assertElse_false hd]

theorem lrRdD1Body_ok (hd : s.dV = true) : lrRdD1Body s = .ok (s, signedBytes s.d1) := by
  rw [lrRdD1Body, assertElse_true hd]

theorem lrRdD1Body_error (hd : s.dV = false) : lrRdD1Body s = .error .resultInvalid := by
  rw [lrRdD1Body, assertElse_false hd]

end Bodies

/-! ### The obligations -/

/-- Settles O45: `to_si` splits an integer that fits, and reports any other. -/
theorem toSiSplitsSignAndMagnitude : Obligations.ToSiSplitsSignAndMagnitude := by
  refine fun x => ⟨fun hx => ?_, toSi_error⟩
  have hok := toSi_ok hx
  obtain ⟨hval, hmag, hneg⟩ := sign_magnitude_of_toSi hok
  refine ⟨_, hok, hval, hmag, hneg, ?_⟩
  rw [signedImage_toNat, hmag, Nat.add_comm]
  simp only [hneg]

/-- Settles O14: the check of the scalar operand decides between the write and the fault. -/
theorem lrLoadALoadsCanonicalScalars : Obligations.LrLoadALoadsCanonicalScalars := fun _ _ =>
  ⟨rfl, fun hf hx => command_ok hf (lrLoadABody_ok hx), fun hf hx => command_error hf (lrLoadABody_error hx),
    command_faulted⟩

/-- Settles O15: the decomposition of a canonical operand exists, and `to_si` keeps value and sign. -/
theorem lrStartStoresTheShortVector : Obligations.LrStartStoresTheShortVector := by
  refine fun s => ⟨rfl, fun hf ha hcanon => ?_, fun hf ha => command_error hf (lrStartBody_error ha), command_faulted⟩
  obtain ⟨x, y, hd⟩ := decompose_canonical hcanon
  obtain ⟨hx, hy⟩ := decompose_eq_ok hd
  obtain ⟨hxval, -, hxneg⟩ := sign_magnitude_of_toSi hx
  obtain ⟨hyval, -, hyneg⟩ := sign_magnitude_of_toSi hy
  exact ⟨x, y, command_ok hf (lrStartBody_ok ha hd), hxval, hyval, hxneg, hyneg⟩

/-- Settles O16: the response data are the 17 bytes of D0's image. -/
theorem lrRdD0ReturnsD0 : Obligations.LrRdD0ReturnsD0 := fun s =>
  ⟨rfl, fun hf hd => ⟨signedBytes s.d0, command_ok hf (lrRdD0Body_ok hd), toLe_length _ _,
      (fromLe_signedBytes _).trans (signedImage_toNat _)⟩,
    fun hf hd => command_error hf (lrRdD0Body_error hd), command_faulted⟩

/-- Settles O17: the response data are the 17 bytes of D1's image. -/
theorem lrRdD1ReturnsD1 : Obligations.LrRdD1ReturnsD1 := fun s =>
  ⟨rfl, fun hf hd => ⟨signedBytes s.d1, command_ok hf (lrRdD1Body_ok hd), toLe_length _ _,
      (fromLe_signedBytes _).trans (signedImage_toNat _)⟩,
    fun hf hd => command_error hf (lrRdD1Body_error hd), command_faulted⟩

end Sys2Proof.Machine
end

section
/-! PROOFS. The scalar ring and the signed-digit expansion (spec/41_scalar_ring_naf.md): the corner cases of the ring
operations (R141 to R145), and the expansion read off the values left at its positions (R147 to R150). -/

namespace Sys2Proof.Machine

/-! ### The ring operations (R142, R143) -/

theorem scNeg_zero : scNeg 0 = 0 := Nat.mod_self _

theorem scNeg_of_ne_zero {x : Nat} (h0 : x ≠ 0) (hx : x < Config.ell) : scNeg x = Config.ell - x :=
  Nat.mod_eq_of_lt (by omega)

theorem scNeg_scNeg {x : Nat} (hx : x < Config.ell) : scNeg (scNeg x) = x := by
  by_cases h0 : x = 0
  · rw [h0, scNeg_zero, scNeg_zero]
  · rw [scNeg_of_ne_zero h0 hx, scNeg_of_ne_zero (by omega) (by omega)]
    omega

/-- A byte of a little-endian string is the digit of its weight in base 256. -/
theorem toLe_getD {n j : Nat} (x : Nat) (h : j < n) :
    (toLe n x).getD j 0x00#8 = BitVec.ofNat 8 (x / 256 ^ j) := by
  induction n generalizing x j with
  | zero => omega
  | succ n ih =>
    cases j with
    | zero => simp [toLe]
    | succ j => rw [toLe, List.getD_cons_succ, ih _ (by omega), Nat.div_div_eq_div_mul, ← Nat.pow_succ']

theorem scToBytes_ok {x : Nat} (hx : x < Config.ell) : scToBytes x = .ok (toLe 32 x) := if_pos hx

theorem scToBytes_error {x : Nat} (hx : Config.ell ≤ x) : scToBytes x = .error .invariant := if_neg (by omega)

/-- A canonical value fills 32 bytes and leaves the top three bits zero. -/
theorem fromLe_toLe_canonical {x : Nat} (hx : x < Config.ell) :
    fromLe (toLe 32 x) = x ∧ ((toLe 32 x).getD 31 0x00#8).toNat < 2 ^ 5 := by
  have hlt : x < 2 ^ 253 := hx.trans (by norm_num [Config.ell])
  refine ⟨?_, ?_⟩
  · rw [fromLe_toLe, Nat.mod_eq_of_lt (by omega)]
  · rw [toLe_getD x (by norm_num), BitVec.toNat_ofNat]
    omega

/-! ### One digit -/

theorem nafDigit_of_even {w : Nat} {k : Int} (h : k % 2 = 0) : nafDigit w k = 0 :=
  if_neg (by omega)

theorem digitFits_nafDigit {w : Nat} {k : Int} (hw : 2 ≤ w) (hk : 0 ≤ k) : DigitFits w (nafDigit w k) := by
  obtain ⟨hzero, -⟩ | ⟨hodd, hshort, -, -⟩ := nafDigit_cases w k hw hk
  · exact Or.inl hzero
  · exact Or.inr ⟨hodd, hshort⟩

/-- A nonzero digit that fits has a table index in range (R149 items 1 and 5). -/
theorem DigitFits.index_bounds {w : Nat} {d : Int} (hw : 2 ≤ w) (hd : DigitFits w d) (h0 : d ≠ 0) :
    d % 2 = 1 ∧ d.natAbs ≤ 2 ^ (w - 1) - 1 ∧ 1 ≤ (d.natAbs + 1) / 2 ∧ (d.natAbs + 1) / 2 ≤ 2 ^ (w - 2) := by
  obtain hzero | ⟨hodd, hshort⟩ := hd
  · exact absurd hzero h0
  · have hpow : 2 ^ (w - 1) = 2 * 2 ^ (w - 2) := by
      rw [← Nat.pow_succ']
      congr 1
      omega
    omega

/-! ### The value left after one position -/

/-- The value `naf` carries from one position to the next: the digit taken off, then halved (R148). -/
def nafRest (w : Nat) (k : Int) : Int := (k - nafDigit w k) / 2

section Rest

variable {w m : Nat} {k : Int}

theorem two_pow_dvd_sub_nafDigit (hw : 2 ≤ w) (hk : 0 ≤ k) (h0 : nafDigit w k ≠ 0) :
    (2 : Int) ^ w ∣ k - nafDigit w k := by
  obtain ⟨hzero, -⟩ | ⟨-, -, hdvd, -⟩ := nafDigit_cases w k hw hk
  · exact absurd hzero h0
  · exact hdvd

theorem two_dvd_sub_nafDigit (hw : 2 ≤ w) (hk : 0 ≤ k) : 2 ∣ k - nafDigit w k := by
  obtain ⟨hzero, heven⟩ | ⟨-, -, hdvd, -⟩ := nafDigit_cases w k hw hk
  · omega
  · exact (dvd_pow_self 2 (by omega)).trans hdvd

/-- The halving is exact (R148). -/
theorem nafDigit_add_two_mul_nafRest (hw : 2 ≤ w) (hk : 0 ≤ k) : nafDigit w k + 2 * nafRest w k = k := by
  have hdvd := two_dvd_sub_nafDigit hw hk
  rw [nafRest]
  omega

theorem nafRest_nonneg (hw : 2 ≤ w) (hk : 0 ≤ k) : 0 ≤ nafRest w k := by
  have hle : nafDigit w k ≤ k := by
    obtain ⟨hzero, -⟩ | ⟨-, -, -, hle⟩ := nafDigit_cases w k hw hk
    · rwa [hzero]
    · exact hle
  exact Int.ediv_nonneg (sub_nonneg.mpr hle) (by norm_num)

/-- Taking a digit off does not pass a power of two: the difference is a multiple of `2^w` less than `2^(w-1)` above. -/
theorem sub_nafDigit_le (hw : 2 ≤ w) (hk : 0 ≤ k) (hm : k ≤ 2 ^ m) : k - nafDigit w k ≤ 2 ^ m := by
  obtain ⟨hzero, -⟩ | ⟨-, hshort, ⟨c, hc⟩, -⟩ := nafDigit_cases w k hw hk
  · rwa [hzero, sub_zero]
  · obtain ⟨hhalves, hhalf⟩ := two_pow_halves w hw
    have hd : |nafDigit w k| < 2 ^ (w - 1) := by
      rw [Int.abs_eq_natAbs]
      exact_mod_cast hshort
    have hlt : 2 ^ w * c < 2 ^ m + 2 ^ (w - 1) := by linarith [neg_lt_of_abs_lt hd]
    rw [hc]
    obtain hmw | hmw := Nat.lt_or_ge m w
    · have hpow : (2 : Int) ^ m ≤ 2 ^ (w - 1) := pow_le_pow_right₀ (by norm_num) (by omega)
      have hc1 : c < 1 := lt_of_mul_lt_mul_left (by linarith) (by positivity : (0 : Int) ≤ 2 ^ w)
      have hc0 : 2 ^ w * c ≤ 0 := mul_nonpos_of_nonneg_of_nonpos (by positivity) (by omega)
      exact hc0.trans (by positivity)
    · obtain ⟨e, he⟩ : (2 : Int) ^ w ∣ 2 ^ m := pow_dvd_pow 2 hmw
      have hce : c < e + 1 := lt_of_mul_lt_mul_left (by linarith) (by positivity : (0 : Int) ≤ 2 ^ w)
      rw [he]
      exact mul_le_mul_of_nonneg_left (by omega) (by positivity)

theorem nafRest_le (hw : 2 ≤ w) (hk : 0 ≤ k) (hm : k ≤ 2 ^ (m + 1)) : nafRest w k ≤ 2 ^ m := by
  have hle := sub_nafDigit_le hw hk hm
  rw [pow_succ] at hle
  rw [nafRest]
  omega

theorem nafRest_eq_zero (hw : 2 ≤ w) (hk : 0 ≤ k) (h1 : k ≤ 1) : nafRest w k = 0 := by
  have hle : k - nafDigit w k ≤ 1 := sub_nafDigit_le (m := 0) hw hk h1
  have hexact := nafDigit_add_two_mul_nafRest hw hk
  have hnonneg := nafRest_nonneg hw hk
  omega

/-- An even value has digit zero and is halved, which takes one factor 2 off. -/
theorem two_pow_dvd_nafRest (h : (2 : Int) ^ (m + 1) ∣ k) : (2 : Int) ^ m ∣ nafRest w k := by
  obtain ⟨c, rfl⟩ := h
  have heq : (2 : Int) ^ (m + 1) * c = 2 * (2 ^ m * c) := by ring
  rw [nafRest, nafDigit_of_even (by omega), sub_zero, heq, Int.mul_ediv_cancel_left _ (by norm_num)]
  exact dvd_mul_right _ _

end Rest

/-! ### The values left at all positions -/

section Positions

variable {w m j : Nat} {k : Int}

theorem iterate_nafRest_nonneg (hw : 2 ≤ w) (hk : 0 ≤ k) (j : Nat) : 0 ≤ (nafRest w)^[j] k := by
  induction j with
  | zero => exact hk
  | succ j ih =>
    rw [Function.iterate_succ_apply']
    exact nafRest_nonneg hw ih

/-- Nothing is left above the bit length (R149 item 4). -/
theorem iterate_nafRest_eq_zero (hw : 2 ≤ w) (hk : 0 ≤ k) (hm : k ≤ 2 ^ m) (hj : m < j) :
    (nafRest w)^[j] k = 0 := by
  induction m generalizing k j with
  | zero =>
    obtain ⟨j, rfl⟩ := Nat.exists_eq_add_one.mpr hj
    rw [Function.iterate_succ_apply, nafRest_eq_zero hw hk hm]
    exact Function.iterate_fixed (nafRest_eq_zero hw le_rfl zero_le_one) j
  | succ m ih =>
    obtain ⟨j, rfl⟩ := Nat.exists_eq_add_one.mpr (Nat.zero_lt_of_lt hj)
    rw [Function.iterate_succ_apply]
    exact ih (nafRest_nonneg hw hk) (nafRest_le hw hk hm) (by omega)

theorem two_pow_dvd_iterate_nafRest (h : (2 : Int) ^ (m + j) ∣ k) : (2 : Int) ^ m ∣ (nafRest w)^[j] k := by
  induction j generalizing k with
  | zero => exact h
  | succ j ih =>
    rw [Function.iterate_succ_apply]
    exact ih (two_pow_dvd_nafRest h)

/-- After a nonzero digit the next `w − 1` digits are zero (R149 item 2). -/
theorem nafDigit_iterate_eq_zero (hw : 2 ≤ w) (hk : 0 ≤ k) (h0 : nafDigit w k ≠ 0) {i : Nat} (h1 : 1 ≤ i)
    (hi : i < w) : nafDigit w ((nafRest w)^[i] k) = 0 := by
  obtain ⟨i, rfl⟩ := Nat.exists_eq_add_one.mpr h1
  have hdvd : (2 : Int) ^ (1 + i) ∣ nafRest w k := by
    have hpow : (2 : Int) * 2 ^ (1 + i) ∣ 2 * nafRest w k := by
      rw [← pow_succ', eq_sub_of_add_eq' (nafDigit_add_two_mul_nafRest hw hk)]
      exact (pow_dvd_pow 2 (by omega)).trans (two_pow_dvd_sub_nafDigit hw hk h0)
    exact Int.dvd_of_mul_dvd_mul_left (by norm_num) hpow
  rw [Function.iterate_succ_apply]
  exact nafDigit_of_even (Int.emod_eq_zero_of_dvd (by simpa using two_pow_dvd_iterate_nafRest hdvd))

/-- The digits taken and the value left make up the argument (R149 item 3). -/
theorem sum_nafDigit_add_rest (hw : 2 ≤ w) (hk : 0 ≤ k) (n : Nat) :
    ∑ j ∈ Finset.range n, nafDigit w ((nafRest w)^[j] k) * 2 ^ j + (nafRest w)^[n] k * 2 ^ n = k := by
  induction n with
  | zero => simp
  | succ n ih =>
    have hstep := nafDigit_add_two_mul_nafRest hw (iterate_nafRest_nonneg hw hk n)
    rw [Finset.sum_range_succ, Function.iterate_succ_apply', pow_succ]
    linear_combination ih + 2 ^ n * hstep

end Positions

/-! ### The digit array -/

/-- When nothing is left after the last position, digit `j` is that of the value left at position `j`. -/
theorem nafDigits_eq_ok {w n : Nat} {k : Int} (h : (nafRest w)^[n] k = 0) :
    ∃ ds, nafDigits w n k = .ok ds ∧ ds.length = n ∧
      ∀ j < n, digitAt ds j = nafDigit w ((nafRest w)^[j] k) := by
  induction n generalizing k with
  | zero =>
    obtain rfl : k = 0 := h
    exact ⟨[], rfl, rfl, nofun⟩
  | succ n ih =>
    obtain ⟨ds, hds, hlength, hdigit⟩ := ih h
    refine ⟨nafDigit w k :: ds, ?_, congrArg (· + 1) hlength, fun j hj => ?_⟩
    · rw [nafRest] at hds
      rw [nafDigits]
      simp only [hds]
    · cases j with
      | zero => exact digitAt_cons_zero _ _
      | succ j => rw [digitAt_cons_succ, hdigit j (by omega), Function.iterate_succ_apply]

/-- The expansion of a `k` below `2^255`: its digits are those of the values left, at every position. -/
theorem naf_eq_ok {w k : Nat} (hw : 2 ≤ w) (hk : k < 2 ^ 255) :
    ∃ n, naf k w = .ok n ∧ n.length = 256 ∧ ∀ j, digitAt n j = nafDigit w ((nafRest w)^[j] (k : Int)) := by
  have hzero {j : Nat} (hj : 255 < j) : (nafRest w)^[j] (k : Int) = 0 :=
    iterate_nafRest_eq_zero hw (Int.natCast_nonneg k) (by exact_mod_cast hk.le) hj
  obtain ⟨n, hn, hlength, hdigit⟩ := nafDigits_eq_ok (hzero (j := Config.nafLen) (by decide))
  refine ⟨n, hn, hlength, fun j => ?_⟩
  obtain hj | hj := Nat.lt_or_ge j Config.nafLen
  · exact hdigit j hj
  · rw [hzero hj, nafDigit_of_even rfl]
    exact List.getD_eq_default _ _ (hlength.trans_le hj)

/-! ### The obligations -/

/-- Settles O48: every digit is taken from the value left at its position; that value is zero beyond the bit length of
`k`, and a multiple of `2^(w−1)` right after a nonzero digit. -/
theorem nafDigitsMeetTheirContract : Obligations.NafDigitsMeetTheirContract := by
  intro k w hw _ hk
  obtain ⟨n, hn, hlength, hdigit⟩ := naf_eq_ok hw hk
  have hk0 : (0 : Int) ≤ k := Int.natCast_nonneg k
  have hleft := iterate_nafRest_nonneg hw hk0
  have habove {m j : Nat} (hm : k < 2 ^ m) (hj : m < j) : digitAt n j = 0 := by
    rw [hdigit, iterate_nafRest_eq_zero hw hk0 (by exact_mod_cast hm.le) hj, nafDigit_of_even rfl]
  refine ⟨n, hn, hlength, ?_, fun j h0 => ?_, fun j i h0 h1 hi => ?_, fun m j hm h0 => ?_, fun h253 => ?_⟩
  · have hsum := sum_nafDigit_add_rest hw hk0 256
    rw [iterate_nafRest_eq_zero (m := 255) hw hk0 (by exact_mod_cast hk.le) (by decide)] at hsum
    simpa [digitSum, Config.nafLen, hdigit] using hsum
  · rw [hdigit] at h0 ⊢
    exact (digitFits_nafDigit hw (hleft j)).index_bounds hw h0
  · rw [hdigit] at h0 ⊢
    rw [Nat.add_comm, Function.iterate_add_apply]
    exact nafDigit_iterate_eq_zero hw (hleft j) h0 h1 hi
  · exact Nat.le_of_not_lt fun hj => h0 (habove hm hj)
  · exact ⟨habove h253 (by decide), habove h253 (by decide)⟩

/-- Settles O46: a remainder is below ELL and congruent to its argument, and a canonical value is its own remainder. -/
theorem scalarRingOperationsAreExact : Obligations.ScalarRingOperationsAreExact :=
  ⟨fun x y => ⟨Nat.mod_lt _ Config.ell_pos, Nat.mod_modEq _ _⟩,
    fun x hx => ⟨Nat.zero_mod _, (congrArg (· % Config.ell) (Nat.mul_one x)).trans (Nat.mod_eq_of_lt hx)⟩,
    by decide +kernel, by decide +kernel, scNeg_zero, by decide +kernel,
    fun x hx => ⟨scNeg_scNeg hx, fun h0 => scNeg_of_ne_zero h0 hx⟩,
    fun x hx => ⟨_, scToBytes_ok hx, toLe_length _ _, fromLe_toLe_canonical hx⟩,
    fun x hx => scToBytes_error hx, by decide +kernel,
    fun buf => ⟨Nat.mod_lt _ Config.ell_pos, Nat.mod_modEq _ _⟩, fun buf hbuf => Nat.mod_eq_of_lt hbuf,
    by decide +kernel, siToScalar_eq⟩

end Sys2Proof.Machine
end

section
/-! PROOFS. The laws of scalar multiplication (spec/42_group_and_tables.md rule R162) as laws of Mathlib's integer
multiples, and what the built and the static tables hold and look up (R164, R166, R168, R169, R171). -/

namespace Sys2Proof

/-! ### The laws of scalar multiplication (R162) -/

namespace GroupOps.Abelian

variable {α : Type} {G : GroupOps α}

theorem smul_add (h : G.Abelian) (k m : Int) (P : α) : G.smul (k + m) P = G.gadd (G.smul k P) (G.smul m P) := by
  let _ := h.addCommGroup
  simp only [h.smul_eq_zsmul]
  exact add_zsmul P k m

theorem smul_mul (h : G.Abelian) (k m : Int) (P : α) : G.smul (k * m) P = G.smul k (G.smul m P) := by
  let _ := h.addCommGroup
  simp only [h.smul_eq_zsmul]
  exact mul_zsmul P k m

theorem smul_gadd (h : G.Abelian) (k : Int) (P Q : α) :
    G.smul k (G.gadd P Q) = G.gadd (G.smul k P) (G.smul k Q) := by
  let _ := h.addCommGroup
  simp only [h.smul_eq_zsmul]
  exact zsmul_add P Q k

theorem smul_gneg (h : G.Abelian) (k : Int) (P : α) : G.smul k (G.gneg P) = G.gneg (G.smul k P) := by
  let _ := h.addCommGroup
  simp only [h.smul_eq_zsmul]
  exact zsmul_neg P k

theorem neg_smul (h : G.Abelian) (k : Int) (P : α) : G.smul (-k) P = G.gneg (G.smul k P) := by
  let _ := h.addCommGroup
  simp only [h.smul_eq_zsmul]
  exact neg_zsmul P k

theorem smul_ident (h : G.Abelian) (k : Int) : G.smul k G.ident = G.ident := by
  let _ := h.addCommGroup
  rw [h.smul_eq_zsmul]
  exact zsmul_zero k

theorem one_smul (h : G.Abelian) (P : α) : G.smul 1 P = P := by
  let _ := h.addCommGroup
  rw [h.smul_eq_zsmul]
  exact one_zsmul P

theorem gdouble_smul (h : G.Abelian) (k : Int) (P : α) : G.gdouble (G.smul k P) = G.smul (2 * k) P := by
  rw [h.gdouble_eq, two_mul, h.smul_add]

theorem smul_comm (h : G.Abelian) (k m : Int) (P : α) : G.smul k (G.smul m P) = G.smul m (G.smul k P) := by
  rw [← h.smul_mul, ← h.smul_mul, mul_comm]

/-- A multiple of the order, added to a scalar, adds the identity. -/
theorem smul_emod (h : G.Abelian) {n : Int} {P : α} (hn : G.smul n P = G.ident) (k : Int) :
    G.smul k P = G.smul (k % n) P :=
  calc G.smul k P = G.smul (k % n + k / n * n) P := by rw [Int.emod_add_ediv_mul]
    _ = G.gadd (G.smul (k % n) P) (G.smul (k / n) (G.smul n P)) := by rw [h.smul_add, h.smul_mul]
    _ = G.smul (k % n) P := by rw [hn, h.smul_ident, h.gadd_ident]

end GroupOps.Abelian

end Sys2Proof

namespace Sys2Proof.Machine

section Tables

variable {α : Type} {G : GroupOps α}

/-! ### The entries of the tables (R164, R168) -/

theorem buildTable_length (h : G.Abelian) (P : α) : (buildTable G P).length = 8 := by
  have hbuild := (buildFrom_getElem? h P 8 0).1
  rwa [show 2 * ((0 : Nat) : Int) + 1 = 1 from rfl, h.one_smul] at hbuild

theorem buildTable_getElem? (h : G.Abelian) (P : α) (k : Nat) (hk : k < 8) :
    (buildTable G P)[k]? = some (G.smul (2 * (k : Int) + 1) P) := by
  have hbuild := (buildFrom_getElem? h P 8 0).2 k hk
  rwa [show 2 * ((0 : Nat) : Int) + 1 = 1 from rfl, h.one_smul, Nat.zero_add] at hbuild

theorem buildFrom_ident (h : G.Abelian) (n : Nat) : buildFrom G G.ident n G.ident = List.replicate n G.ident := by
  induction n with
  | zero => rfl
  | succ n ih => rw [buildFrom, h.gadd_ident, ih, List.replicate_succ]

theorem buildTable_ident (h : G.Abelian) : buildTable G G.ident = List.replicate 8 G.ident := by
  rw [buildTable, h.gdouble_eq, h.gadd_ident]
  exact buildFrom_ident h 8

theorem staticTable_length (P : α) : (staticTable G P).length = 64 := by
  rw [staticTable, List.length_map, List.length_range, Config.tblFix]

theorem staticTable_getElem? (P : α) (k : Nat) (hk : k < 64) :
    (staticTable G P)[k]? = some (G.smul (2 * (k : Int) + 1) P) := by
  rw [staticTable, List.getElem?_map, Config.tblFix, List.getElem?_range hk, Option.map_some]

/-- The spec counts a table's entries from one, the model from zero. -/
theorem getElem?_pred_eq_smul {T : List α} {P : α} {n : Nat}
    (ht : ∀ k : Nat, k < n → T[k]? = some (G.smul (2 * (k : Int) + 1) P)) {k : Nat} (h1 : 1 ≤ k) (hn : k ≤ n) :
    T[k - 1]? = some (G.smul (2 * (k : Int) - 1) P) := by
  have hodd : 2 * ((k - 1 : Nat) : Int) + 1 = 2 * (k : Int) - 1 := by omega
  rw [ht (k - 1) (by omega), hodd]

end Tables

/-! ### The obligations -/

/-- Settles O49: each law is one of the integer multiples of an abelian group; multiples of `B` commute, so `B128` has
the order of `B`. -/
theorem scalarMultiplicationLaws : Obligations.ScalarMultiplicationLaws := by
  refine ⟨fun α G h k m P Q => ?_, fun α G h => ⟨h.ell_base, ?_⟩⟩
  · exact ⟨h.smul_add k m P, h.smul_mul k m P, h.smul_gadd k P Q, (h.smul_gneg k P).trans (h.neg_smul k P).symm,
      h.neg_smul k P, h.gdouble_smul k P, fun hell => h.smul_emod hell k⟩
  · rw [base128, h.smul_comm, h.ell_base, h.smul_ident]

/-- Settles O50: a multiple of a multiple of `B` is the multiple by the product. -/
theorem base128FoldsTheHighHalf : Obligations.Base128FoldsTheHighHalf := by
  intro α G h
  have hfold (e : Int) : G.smul e (base128 G) = G.smul (e * 2 ^ 128) G.base := (h.smul_mul e _ G.base).symm
  exact ⟨hfold, fun e0 e1 => by rw [hfold, mul_comm e1, h.smul_add]⟩

/-- Settles O51: the entries are the successive odd multiples; from the identity, each entry is the identity again. -/
theorem builtTableHoldsOddMultiples : Obligations.BuiltTableHoldsOddMultiples := fun _ _ h =>
  ⟨fun P => ⟨buildTable_length h P, fun _ => getElem?_pred_eq_smul (buildTable_getElem? h P)⟩, buildTable_ident h⟩

/-- Settles O52: both tables are static tables, of `B` and of `B128`. -/
theorem staticTablesHoldOddMultiples : Obligations.StaticTablesHoldOddMultiples := fun _ G =>
  ⟨staticTable_length _, staticTable_length _, fun _ h1 hn =>
    ⟨getElem?_pred_eq_smul (staticTable_getElem? G.base) h1 hn,
      getElem?_pred_eq_smul (staticTable_getElem? (base128 G)) h1 hn⟩⟩

/-- Settles O53: a digit below twice the table's length is the factor of the entry at its index. -/
theorem lookupGivesTheDigitsMultiple : Obligations.LookupGivesTheDigitsMultiple := fun _ G h d h0 h1 =>
  ⟨fun P h15 => lookup_eq_smul (buildTable_getElem? h P) d h0 h1 (by omega), fun h127 =>
    ⟨lookup_eq_smul (staticTable_getElem? G.base) d h0 h1 (by omega),
      lookup_eq_smul (staticTable_getElem? (base128 G)) d h0 h1 (by omega)⟩⟩

end Sys2Proof.Machine
end

section
/-! PROOFS. The steps of the evaluation, each by itself (spec/43_naf_evaluator.md rules R188 to R196): the split of `db`,
the expansions, the starting index, and the scan over any abelian group. -/

namespace Sys2Proof.Machine

/-! ### The split of `db` (R188) -/

/-- Sixteen bytes extended with zeros are below ELL, so nothing is reduced (R94). -/
theorem scSetBits_zero_extended {bs : List Byte} (hbs : bs.length = 16) :
    scSetBits (bs ++ List.replicate 16 0#8) = fromLe bs := by
  have hlt := fromLe_lt bs
  rw [hbs] at hlt
  rw [scSetBits, fromLe_append, fromLe_replicate_zero, Nat.mul_zero, Nat.add_zero]
  exact Nat.mod_eq_of_lt (hlt.trans (by norm_num [Config.ell]))

theorem splitDb_ok {db : Nat} (h : db < Config.ell) : splitDb db = .ok (db % 2 ^ 128, db / 2 ^ 128) := by
  obtain ⟨hlow, hhigh⟩ := toLe_take_drop 16 16 db
  have hlt : db / 256 ^ 16 < 256 ^ 16 := Nat.div_lt_of_lt_mul (h.trans (by norm_num [Config.ell]))
  rw [splitDb, scToBytes_ok h]
  simp only [hlow, hhigh]
  rw [scSetBits_zero_extended (toLe_length _ _), scSetBits_zero_extended (toLe_length _ _), fromLe_toLe, fromLe_toLe,
    Nat.mod_eq_of_lt hlt]
  norm_num

/-! ### The expansions (R190) -/

/-- An expansion stands for its scalar, in digits that a table of its width can serve (R149). -/
theorem naf_digits {k w : Nat} (h2 : 2 ≤ w) (h8 : w ≤ 8) (hk : k < 2 ^ 255) :
    ∃ n, naf k w = .ok n ∧ digitSum n = k ∧ ∀ j, DigitFits w (digitAt n j) := by
  obtain ⟨n, hn, -, hsum, -⟩ := nafDigitsMeetTheirContract k w h2 h8 hk
  obtain ⟨n', hn', -, hdigit⟩ := naf_eq_ok h2 hk
  obtain rfl : n = n' := Except.ok.inj (hn.symm.trans hn')
  refine ⟨n, hn, hsum, fun j => ?_⟩
  rw [hdigit]
  exact digitFits_nafDigit h2 (iterate_nafRest_nonneg h2 (Int.natCast_nonneg k) j)

theorem expand_ok {m0 e0 e1 m1 : Nat} (h0 : m0 < 2 ^ 255) (h1 : e0 < 2 ^ 255) (h2 : e1 < 2 ^ 255)
    (h3 : m1 < 2 ^ 255) :
    ∃ N, expand m0 e0 e1 m1 = .ok N ∧ DigitsFit N ∧ digitSum N.n0 = m0 ∧ digitSum N.n1 = e0 ∧
      digitSum N.n2 = e1 ∧ digitSum N.n3 = m1 := by
  obtain ⟨n0, hn0, hs0, hf0⟩ := naf_digits (w := Config.wVar) (by decide) (by decide) h0
  obtain ⟨n1, hn1, hs1, hf1⟩ := naf_digits (w := Config.wFix) (by decide) (by decide) h1
  obtain ⟨n2, hn2, hs2, hf2⟩ := naf_digits (w := Config.wFix) (by decide) (by decide) h2
  obtain ⟨n3, hn3, hs3, hf3⟩ := naf_digits (w := Config.wVar) (by decide) (by decide) h3
  refine ⟨⟨n0, n1, n2, n3⟩, ?_, fun j => ⟨hf0 j, hf1 j, hf2 j, hf3 j⟩, hs0, hs1, hs2, hs3⟩
  unfold expand
  simp only [hn0, hn1, hn2, hn3]

/-! ### The starting index (R192, R193) -/

theorem anyDigit_eq_true_iff {N : Digits} {j : Nat} :
    anyDigit N j = true ↔
      digitAt N.n0 j ≠ 0 ∨ digitAt N.n1 j ≠ 0 ∨ digitAt N.n2 j ≠ 0 ∨ digitAt N.n3 j ≠ 0 := by
  simp [anyDigit, or_assoc]

theorem anyDigit_eq_false_iff {N : Digits} {j : Nat} :
    anyDigit N j = false ↔
      digitAt N.n0 j = 0 ∧ digitAt N.n1 j = 0 ∧ digitAt N.n2 j = 0 ∧ digitAt N.n3 j = 0 := by
  simp [anyDigit, and_assoc]

theorem startBelow_of_anyDigit {N : Digits} {j : Nat} (h : anyDigit N j = true) : startBelow N (j + 1) = some j :=
  if_pos h

theorem startBelow_of_not_anyDigit {N : Digits} {j : Nat} (h : anyDigit N j = false) :
    startBelow N (j + 1) = startBelow N j := if_neg (by simp [h])

/-- What the search below `n` answers: a position with a digit and none above it, or that there is no digit. -/
theorem startBelow_cases (N : Digits) (n : Nat) :
    (∃ i, startBelow N n = some i ∧ i < n ∧ anyDigit N i = true ∧ ∀ j, i < j → j < n → anyDigit N j = false) ∨
    (startBelow N n = none ∧ ∀ j < n, anyDigit N j = false) := by
  induction n with
  | zero => exact .inr ⟨rfl, nofun⟩
  | succ n ih =>
    cases hn : anyDigit N n with
    | true => exact .inl ⟨n, startBelow_of_anyDigit hn, n.lt_succ_self, hn, fun j hj hj' => absurd hj' (by omega)⟩
    | false =>
      rw [startBelow_of_not_anyDigit hn]
      obtain ⟨i, hi, hlt, hany, habove⟩ | ⟨hnone, hall⟩ := ih
      · refine .inl ⟨i, hi, by omega, hany, fun j hij hj => ?_⟩
        obtain hj | rfl := Nat.lt_succ_iff_lt_or_eq.mp hj
        · exact habove j hij hj
        · exact hn
      · exact .inr ⟨hnone, Nat.forall_lt_succ_right.mpr ⟨hall, hn⟩⟩

theorem startBelow_eq_some_iff {N : Digits} {n i : Nat} :
    startBelow N n = some i ↔ i < n ∧ anyDigit N i = true ∧ ∀ j, i < j → j < n → anyDigit N j = false := by
  obtain ⟨k, hk, hkn, hany, habove⟩ | ⟨hnone, hall⟩ := startBelow_cases N n
  · rw [hk, Option.some_inj]
    refine ⟨fun hki => hki ▸ ⟨hkn, hany, habove⟩, fun ⟨hin, hany', habove'⟩ => ?_⟩
    obtain hlt | heq | hgt := lt_trichotomy k i
    · simp [habove i hlt hin] at hany'
    · exact heq
    · simp [habove' k hgt hkn] at hany
  · rw [hnone]
    exact ⟨nofun, fun ⟨hin, hany, _⟩ => by simp [hall i hin] at hany⟩

theorem startBelow_eq_none_iff {N : Digits} {n : Nat} :
    startBelow N n = none ↔ ∀ j < n, anyDigit N j = false := by
  obtain ⟨k, hk, hkn, hany, -⟩ | ⟨hnone, hall⟩ := startBelow_cases N n
  · rw [hk]
    exact ⟨nofun, fun hall => by simp [hall k hkn] at hany⟩
  · exact iff_of_true hnone hall

/-! ### The scan (R194 to R196) -/

/-- `[f N0]A′ + [f N1]B + [f N2]B128 + [f N3]C′`, for a number `f` read off each digit array. -/
def fourTerm {α : Type} (G : GroupOps α) (ab : Absorbed α) (N : Digits) (f : List Int → Int) : α :=
  G.gadd (G.gadd (G.gadd (G.smul (f N.n0) ab.pointA) (G.smul (f N.n1) G.base)) (G.smul (f N.n2) (base128 G)))
    (G.smul (f N.n3) ab.pointC)

/-- What an array's digits below `n` add to a number whose digits above are already in `high` (R196). -/
def digitsBelow (high : List Int → Int) (n : Nat) (ds : List Int) : Int :=
  high ds * 2 ^ n + ∑ j ∈ Finset.range n, digitAt ds j * 2 ^ j

theorem digitsBelow_zero (high : List Int → Int) : digitsBelow high 0 = high := by
  funext ds
  simp [digitsBelow]

theorem digitsBelow_succ (high : List Int → Int) (n : Nat) :
    digitsBelow high (n + 1) = digitsBelow (fun ds => 2 * high ds + digitAt ds n) n := by
  funext ds
  rw [digitsBelow, digitsBelow, Finset.sum_range_succ]
  ring

theorem digitSum_eq_digitsBelow : digitSum = digitsBelow (fun _ => 0) Config.nafLen := by
  funext ds
  rw [digitsBelow, zero_mul, zero_add, digitSum]

section Scan

variable {α : Type} {G : GroupOps α} (h : G.Abelian) (ab : Absorbed α) (N : Digits)

include h

theorem fourTerm_zero : fourTerm G ab N (fun _ => 0) = G.ident := by
  simp only [fourTerm, h.smul_zero, h.gadd_ident]

/-- One iteration doubles the four numbers and takes in the digits at its index (R194). -/
theorem scanStep_fourTerm (hN : DigitsFit N) (idx : Nat) (f : List Int → Int) :
    scanStep G N (tablesOf G ab) idx (fourTerm G ab N f) = fourTerm G ab N (fun ds => 2 * f ds + digitAt ds idx) := by
  obtain ⟨h0, h1, h2, h3⟩ := hN idx
  have hA := addDigit_eq h (w := Config.wVar) (by decide) (buildTable_getElem? h ab.pointA) _ h0
  have hB := addDigit_eq h (w := Config.wFix) (by decide) (staticTable_getElem? G.base) _ h1
  have hB128 := addDigit_eq h (w := Config.wFix) (by decide) (staticTable_getElem? (base128 G)) _ h2
  have hC := addDigit_eq h (w := Config.wVar) (by decide) (buildTable_getElem? h ab.pointC) _ h3
  simp only [scanStep, tablesOf, tableB, tableB128, hA, hB, hB128, hC, h.gdouble_eq, fourTerm, two_mul, h.smul_add]
  have hassoc : Std.Associative G.gadd := ⟨h.gadd_assoc⟩
  have hcomm : Std.Commutative G.gadd := ⟨h.gadd_comm⟩
  ac_rfl

theorem scanDown_fourTerm (hN : DigitsFit N) (n : Nat) (f : List Int → Int) :
    scanDown G N (tablesOf G ab) n (fourTerm G ab N f) = fourTerm G ab N (digitsBelow f n) := by
  induction n generalizing f with
  | zero => rw [scanDown, digitsBelow_zero]
  | succ n ih => rw [scanDown, scanStep_fourTerm h ab N hN, ih, digitsBelow_succ]

/-- Where no array has a digit, an iteration keeps the identity (R193). -/
theorem scanStep_ident {T : Tables α} {idx : Nat} (hidx : anyDigit N idx = false) :
    scanStep G N T idx G.ident = G.ident := by
  obtain ⟨h0, h1, h2, h3⟩ := anyDigit_eq_false_iff.mp hidx
  simp [scanStep, addDigit, h0, h1, h2, h3, h.gdouble_eq, h.gadd_ident]

/-- Starting at the largest index with a digit is starting at the top: above it the accumulator stays the identity. -/
theorem scan_startBelow (T : Tables α) (n : Nat) : scan G (startBelow N n) N T = scanDown G N T n G.ident := by
  induction n with
  | zero => rfl
  | succ n ih =>
    cases hn : anyDigit N n with
    | true => rw [startBelow_of_anyDigit hn, scan]
    | false => rw [startBelow_of_not_anyDigit hn, ih, scanDown, scanStep_ident h N hn]

theorem scan_eq_fourTerm (hN : DigitsFit N) :
    scan G (startIndex N) N (tablesOf G ab) = fourTerm G ab N digitSum := by
  rw [startIndex, scan_startBelow h, ← fourTerm_zero h ab N, scanDown_fourTerm h ab N hN, digitSum_eq_digitsBelow]

end Scan

/-! ### The obligations -/

/-- Settles O47: the bytes of `db` are cut after the sixteenth, and neither half is reduced. -/
theorem splitCutsAtBit128 : Obligations.SplitCutsAtBit128 := by
  intro db hdb
  have hlt : db < 2 ^ 253 := hdb.trans (by norm_num [Config.ell])
  exact ⟨_, _, splitDb_ok hdb, rfl, rfl, Nat.mod_lt _ (by norm_num), by omega, (Nat.mod_add_div _ _).symm⟩

/-- Settles O54: the search goes down from 255 and stops at the first position with a digit. -/
theorem startIndexIsTheLargestNonzero : Obligations.StartIndexIsTheLargestNonzero := by
  refine ⟨fun N i => ?_, fun N => ?_, fun _ _ _ _ => rfl⟩
  · simp only [startIndex, startBelow_eq_some_iff, anyDigit_eq_true_iff, anyDigit_eq_false_iff, Config.nafLen,
      Nat.lt_succ_iff]
  · simp only [startIndex, startBelow_eq_none_iff, anyDigit_eq_false_iff, Config.nafLen, Nat.lt_succ_iff]

/-- Settles O55: the accumulator is always the sum of the four multiples by the digits scanned so far. -/
theorem scanComputesTheFourTermSum : Obligations.ScanComputesTheFourTermSum := fun _ _ N ab h hN =>
  scan_eq_fourTerm h ab N hN

end Sys2Proof.Machine
end

section
/-! PROOFS. The value of the evaluation (spec/43_naf_evaluator.md rules R186, R187, R197, R198, R203, R204): the absorbed
signs, steps 2 to 5 put together, and what the result is of the target a verifier asks for. -/

namespace Sys2Proof

/-! ### Scalars modulo the order of a point (R162, R198) -/

namespace GroupOps.Abelian

variable {α : Type} {G : GroupOps α}

theorem ident_gadd (h : G.Abelian) (P : α) : G.gadd G.ident P = P := (h.gadd_comm _ _).trans (h.gadd_ident P)

/-- Scalars congruent modulo the order of a point give one multiple of it. -/
theorem smul_eq_of_modEq (h : G.Abelian) {n k m : Int} {P : α} (hn : G.smul n P = G.ident) (hkm : k ≡ m [ZMOD n]) :
    G.smul k P = G.smul m P := by
  rw [h.smul_emod hn k, hkm, ← h.smul_emod hn m]

/-- A scalar coprime to the order of a point takes it to the identity only if it is the identity, by Bézout's identity. -/
theorem smul_eq_ident_iff (h : G.Abelian) {n k : Int} {P : α} (hn : G.smul n P = G.ident) (hk : IsCoprime k n) :
    G.smul k P = G.ident ↔ P = G.ident := by
  refine ⟨fun hP => ?_, fun hP => hP ▸ h.smul_ident k⟩
  obtain ⟨c, d, hcd⟩ := hk
  calc P = G.smul (c * k + d * n) P := by rw [hcd, h.one_smul]
    _ = G.gadd (G.smul c (G.smul k P)) (G.smul d (G.smul n P)) := by rw [h.smul_add, h.smul_mul, h.smul_mul]
    _ = G.ident := by rw [hP, hn, h.smul_ident, h.smul_ident, h.gadd_ident]

end GroupOps.Abelian

end Sys2Proof

namespace Sys2Proof.Machine

/-! ### The absorbed signs (R186, R187) -/

section Absorb

variable {α : Type} {G : GroupOps α}

/-- A negated point under the magnitude is the point under the signed value. -/
theorem smul_mag_absorbed (h : G.Abelian) (d : SignedInt) (P : α) :
    G.smul (d.mag.toNat : Int) (if d.neg then G.gneg P else P) = G.smul (signedVal d) P := by
  unfold signedVal
  split
  · rw [h.smul_gneg, h.neg_smul]
  · rfl

/-- `C′` carries the sign of `−d1`. -/
theorem smul_mag_absorbed_neg (h : G.Abelian) (d : SignedInt) (P : α) :
    G.smul (d.mag.toNat : Int) (if d.neg then P else G.gneg P) = G.gneg (G.smul (signedVal d) P) := by
  unfold signedVal
  split
  · rw [← h.neg_smul, neg_neg]
  · rw [h.smul_gneg]

theorem scNeg_modEq {b : Nat} (hb : b < Config.ell) : (scNeg b : Int) ≡ -b [ZMOD Config.ell] := by
  rw [scNeg, Int.natCast_mod, Nat.cast_sub hb.le]
  exact (Int.mod_modEq _ _).trans (by simp [Int.ModEq])

end Absorb

/-- `db`: the absorbed `b` times `|d1|` modulo ELL (R187). -/
def absorbedProduct (d1 : SignedInt) (b : Nat) : Nat := scMul (if d1.neg then scNeg b else b) (siToScalar d1)

theorem absorbedProduct_lt (d1 : SignedInt) (b : Nat) : absorbedProduct d1 b < Config.ell :=
  Nat.mod_lt _ Config.ell_pos

/-- The absorbed sign makes `db` the residue of `b·d1` itself. -/
theorem absorbedProduct_eq {b : Nat} (hb : b < Config.ell) (d1 : SignedInt) :
    (absorbedProduct d1 b : Int) = (b * signedVal d1) % Config.ell := by
  rw [absorbedProduct, scMul, Int.natCast_mod, Nat.cast_mul, siToScalar_eq, signedVal]
  split
  · rw [mul_neg, ← neg_mul]
    exact (scNeg_modEq hb).mul_right _
  · rfl

/-! ### The value of steps 2 to 5, and of the whole evaluation (R184, R197) -/

/-- `[k0]A + [(b·k1) mod ELL]B − [k1]C` (R197). -/
def evaluationResult {α : Type} (G : GroupOps α) (k0 k1 : Int) (A : α) (b : Nat) (C : α) : α :=
  G.gadd (G.gadd (G.smul k0 A) (G.smul (((b : Int) * k1) % (Config.ell : Int)) G.base)) (G.gneg (G.smul k1 C))

section Evaluate

variable {α : Type} {G : GroupOps α} (h : G.Abelian) {b : Nat} (hb : b < Config.ell)

include h hb

/-- The two halves of `db` fold together again on `B` (R171). -/
theorem split_multiples (d1 : SignedInt) :
    G.gadd (G.smul ((absorbedProduct d1 b % 2 ^ 128 : Nat) : Int) G.base)
        (G.smul ((absorbedProduct d1 b / 2 ^ 128 : Nat) : Int) (base128 G)) =
      G.smul ((b * signedVal d1) % Config.ell) G.base := by
  rw [(base128FoldsTheHighHalf _ G h).2, ← absorbedProduct_eq hb d1]
  congr 1
  exact_mod_cast Nat.mod_add_div (absorbedProduct d1 b) (2 ^ 128)

theorem fourTerm_absorbed (d0 d1 : SignedInt) (A C : α) {N : Digits} (h0 : digitSum N.n0 = siToScalar d0)
    (h1 : digitSum N.n1 = (absorbedProduct d1 b % 2 ^ 128 : Nat))
    (h2 : digitSum N.n2 = (absorbedProduct d1 b / 2 ^ 128 : Nat)) (h3 : digitSum N.n3 = siToScalar d1) :
    fourTerm G (absorb G d0.neg d1.neg A b C) N digitSum =
      evaluationResult G (signedVal d0) (signedVal d1) A b C := by
  rw [fourTerm, h0, h1, h2, h3, siToScalar_eq, siToScalar_eq, h.gadd_assoc (G.smul _ _), split_multiples h hb, absorb,
    smul_mag_absorbed h, smul_mag_absorbed_neg h, evaluationResult]

theorem evaluateWith_eq_ok (d0 d1 : SignedInt) (A C : α) :
    evaluateWith G d0 d1 A b C = .ok ⟨d0, d1, evaluationResult G (signedVal d0) (signedVal d1) A b C⟩ := by
  have hell : Config.ell < 2 ^ 255 := by norm_num [Config.ell]
  have hmag (d : SignedInt) : siToScalar d < 2 ^ 255 := (Nat.mod_lt _ Config.ell_pos).trans hell
  have hlt := (absorbedProduct_lt d1 b).trans hell
  have hdb : scMul (absorb G d0.neg d1.neg A b C).scalarB (siToScalar d1) = absorbedProduct d1 b := rfl
  obtain ⟨N, hN, hfit, h0, h1, h2, h3⟩ := expand_ok (hmag d0) ((Nat.mod_le _ (2 ^ 128)).trans_lt hlt)
    ((Nat.div_le_self _ (2 ^ 128)).trans_lt hlt) (hmag d1)
  unfold evaluateWith
  simp only [hdb, splitDb_ok (absorbedProduct_lt d1 b), hN]
  rw [scan_eq_fourTerm h _ N hfit, fourTerm_absorbed h hb d0 d1 A C h0 h1 h2 h3]

theorem evaluate_eq_ok {a : Nat} {x y : SignedInt} (hd : decompose a = .ok (x, y)) (A C : α) :
    evaluate G a A b C = .ok ⟨x, y, evaluationResult G (signedVal x) (signedVal y) A b C⟩ := by
  rw [evaluate, hd]
  exact evaluateWith_eq_ok h hb x y A C

end Evaluate

/-- The reducer's output as SignedIntegers, by value (R120, R186). -/
theorem exists_decompose {a : Nat} (ha : a < Config.ell) :
    ∃ x y, decompose a = .ok (x, y) ∧ signedVal x = (fsv a).x ∧ signedVal y = (fsv a).y := by
  obtain ⟨x, y, hd⟩ := decompose_canonical ha
  obtain ⟨hx, hy⟩ := decompose_eq_ok hd
  exact ⟨x, y, hd, (sign_magnitude_of_toSi hx).1, (sign_magnitude_of_toSi hy).1⟩

/-- `δ = d1` is not zero and shorter than the prime ELL, so it is a unit modulo ELL (R198). -/
theorem isCoprime_fsv_y {a : Nat} (ha : a < Config.ell) : IsCoprime (fsv a).y (Config.ell : Int) := by
  obtain ⟨-, -, hlt, hne⟩ := shortVectorMeetsTheContract.1 a ha
  have hell : 2 ^ 127 < Config.ell := by norm_num [Config.ell]
  rw [Int.isCoprime_iff_gcd_eq_one]
  exact (Nat.coprime_of_lt_prime (Int.natAbs_ne_zero.mpr hne) (hlt.trans hell) Config.ell_prime).symm

/-- `[a]A + [b]B − C`, what a verifier wants to know (R198). -/
def unscaledTarget {α : Type} (G : GroupOps α) (a : Nat) (A : α) (b : Nat) (C : α) : α :=
  G.gadd (G.gadd (G.smul (a : Int) A) (G.smul (b : Int) G.base)) (G.gneg C)

section Lawful

variable {α : Type} {G : GroupOps α} (h : G.Lawful) {a b : Nat} {A C : α}
  (hA : G.smul (Config.ell : Int) A = G.ident)

include h hA

/-- On a point of order dividing ELL, `d0` acts as `a·d1` (R110, R198). -/
theorem evaluationResult_eq_smul {k0 k1 : Int} (hk : (Config.ell : Int) ∣ k0 - a * k1) :
    evaluationResult G k0 k1 A b C = G.smul k1 (unscaledTarget G a A b C) := by
  have hmod : k0 ≡ k1 * a [ZMOD Config.ell] := by
    rw [mul_comm]
    exact (Int.modEq_iff_dvd.mpr hk).symm
  rw [evaluationResult, unscaledTarget, h.smul_eq_of_modEq hA hmod, ← h.smul_emod h.ell_base, mul_comm (b : Int),
    h.smul_mul, h.smul_mul, ← h.smul_gneg, ← h.smul_gadd, ← h.smul_gadd]

theorem smul_ell_unscaledTarget (hC : G.smul (Config.ell : Int) C = G.ident) :
    G.smul (Config.ell : Int) (unscaledTarget G a A b C) = G.ident := by
  rw [unscaledTarget, h.smul_gadd, h.smul_gadd, h.smul_gneg, h.smul_comm _ a, h.smul_comm _ b, hA, hC, h.ell_base,
    h.smul_ident, h.smul_ident, h.gadd_ident, h.gadd_gneg]

/-- The result is the target times `δ = d1` (R198). -/
theorem exists_evaluate_eq_smul (ha : a < Config.ell) (hb : b < Config.ell) (C : α) :
    ∃ ev, evaluate G a A b C = .ok ev ∧ signedVal ev.d1 = (fsv a).y ∧
      ev.r = G.smul (fsv a).y (unscaledTarget G a A b C) := by
  obtain ⟨x, y, hd, hx, hy⟩ := exists_decompose ha
  obtain ⟨hlattice, -⟩ := shortVectorMeetsTheContract.1 a ha
  refine ⟨_, evaluate_eq_ok h.toAbelian hb hd A C, hy, ?_⟩
  rw [hx, hy]
  exact evaluationResult_eq_smul h hA hlattice

end Lawful

/-- The decomposition `(0, 1)` leaves out `A` (R203, R204). -/
theorem evaluationResult_zero_one {α : Type} {G : GroupOps α} (h : G.Abelian) {b : Nat} (hb : b < Config.ell)
    (A C : α) : evaluationResult G 0 1 A b C = G.gadd (G.smul (b : Int) G.base) (G.gneg C) := by
  rw [evaluationResult, mul_one, Int.emod_eq_of_lt (by omega) (by omega), h.smul_zero, h.ident_gadd, h.one_smul]

theorem exists_evaluate_zero {α : Type} {G : GroupOps α} (h : G.Abelian) {b : Nat} (hb : b < Config.ell) (A C : α) :
    ∃ ev, evaluate G 0 A b C = .ok ev ∧ signedVal ev.d0 = 0 ∧ signedVal ev.d1 = 1 ∧
      ev.r = G.gadd (G.smul (b : Int) G.base) (G.gneg C) := by
  obtain ⟨x, y, hd, hx, hy⟩ := exists_decompose Config.ell_pos
  rw [fsv_zero] at hx hy
  refine ⟨_, evaluate_eq_ok h hb hd A C, hx, hy, ?_⟩
  rw [hx, hy]
  exact evaluationResult_zero_one h hb A C

/-! ### The obligations -/

/-- Settles O56: the expansions stand for the magnitudes and the halves of `db`; the signs are in the points and in
`db`. -/
theorem evaluationIdentityInEveryGroup : Obligations.EvaluationIdentityInEveryGroup :=
  fun _ _ d0 d1 A C _ h hb => ⟨_, evaluateWith_eq_ok h hb d0 d1 A C, rfl, rfl, rfl⟩

/-- Settles O57: `d0` is `a·d1` modulo the order of `A`, and `db` is `b·d1` modulo that of `B`. -/
theorem resultIsTheTargetTimesDelta : Obligations.ResultIsTheTargetTimesDelta := by
  intro α G a b A C h ha hb hA
  obtain ⟨ev, hev, hd1, hr⟩ := exists_evaluate_eq_smul h hA ha hb C
  exact ⟨ev, hev, hd1, hd1 ▸ hr⟩

/-- Settles O58: the target has an order dividing the prime ELL, and `d1` is a unit modulo ELL. -/
theorem identityVerdictSurvivesTheScaling : Obligations.IdentityVerdictSurvivesTheScaling := by
  intro α G a b A C h ha hb hA hC
  obtain ⟨ev, hev, -, hr⟩ := exists_evaluate_eq_smul h hA ha hb C
  refine ⟨ev, hev, ?_⟩
  rw [hr]
  exact h.smul_eq_ident_iff (smul_ell_unscaledTarget h hA hC) (isCoprime_fsv_y ha)

/-- Settles O59: the reducer answers `(0, 1)` for zero, which leaves out `A`; with `b = 0` too, `B` is left out. -/
theorem zeroScalarGivesTheTwoTermResult : Obligations.ZeroScalarGivesTheTwoTermResult := by
  intro α G b A C h hb
  refine ⟨exists_evaluate_zero h hb A C, ?_⟩
  obtain ⟨ev, hev, -, -, hr⟩ := exists_evaluate_zero h Config.ell_pos A C
  exact ⟨ev, hev, by rw [hr, Nat.cast_zero, h.smul_zero, h.ident_gadd]⟩

end Sys2Proof.Machine
end

section
/-! PROOFS. The commands of the evaluator (spec/43_naf_evaluator.md rules R180 to R186, R199): what each body answers, and
loads as writes that depend on the operand only. -/

namespace Sys2Proof.Machine

/-! ### The bodies of the commands -/

section Bodies

variable {s : State}

theorem neLoadSaBody_ok {x : Scalar} (h : x.toNat < Config.ell) : neLoadSaBody x s = .ok (writeSA x s, []) := by
  rw [neLoadSaBody, scalarOperand_ok h]

theorem neLoadSaBody_error {x : Scalar} (h : Config.ell ≤ x.toNat) : neLoadSaBody x s = .error .noncanonical := by
  rw [neLoadSaBody, scalarOperand_error h]

theorem neLoadSbBody_ok {x : Scalar} (h : x.toNat < Config.ell) : neLoadSbBody x s = .ok (writeSB x s, []) := by
  rw [neLoadSbBody, scalarOperand_ok h]

theorem neLoadSbBody_error {x : Scalar} (h : Config.ell ≤ x.toNat) : neLoadSbBody x s = .error .noncanonical := by
  rw [neLoadSbBody, scalarOperand_error h]

theorem neLoadPaBody_ok {pt : List Byte} {p : Point} (h : Config.ptDecode pt = some p) :
    neLoadPaBody pt s = .ok (writePTA p s, []) := by
  rw [neLoadPaBody, pointOperand_ok h]

theorem neLoadPaBody_error {pt : List Byte} (h : Config.ptDecode pt = none) :
    neLoadPaBody pt s = .error .pointInvalid := by
  rw [neLoadPaBody, pointOperand_error h]

theorem neLoadPcBody_ok {pt : List Byte} {p : Point} (h : Config.ptDecode pt = some p) :
    neLoadPcBody pt s = .ok (writePTC p s, []) := by
  rw [neLoadPcBody, pointOperand_ok h]

theorem neLoadPcBody_error {pt : List Byte} (h : Config.ptDecode pt = none) :
    neLoadPcBody pt s = .error .pointInvalid := by
  rw [neLoadPcBody, pointOperand_error h]

theorem neStartBody_ok {ev : Evaluation Point} (hv : evaluatorOperandsValid s = true)
    (he : evaluate Config.group s.sa.toNat s.pta s.sb.toNat s.ptc = .ok ev) :
    neStartBody s = .ok (writeR ev.r (writeD ev.d0 ev.d1 (writeA s.sa s)), []) := by
  rw [neStartBody, assertElse_true hv]
  simp only [he]

theorem neStartBody_error (hv : evaluatorOperandsValid s = false) : neStartBody s = .error .operandMissing := by
  rw [neStartBody, assertElse_false hv]

theorem neRdRBody_ok (hr : s.rV = true) : neRdRBody s = .ok (s, Config.ptEncode s.r) := by
  rw [neRdRBody, assertElse_true hr]

theorem neRdRBody_error (hr : s.rV = false) : neRdRBody s = .error .resultInvalid := by
  rw [neRdRBody, assertElse_false hr]

/-- Canonical scalars never fail inside NE_START: the decomposition of `SA`, then R197's formula. -/
theorem exists_evaluate_canonical (hsa : s.sa.toNat < Config.ell) (hsb : s.sb.toNat < Config.ell) :
    ∃ x y, decompose s.sa.toNat = .ok (x, y) ∧ signedVal x = (fsv s.sa.toNat).x ∧ signedVal y = (fsv s.sa.toNat).y ∧
      evaluate Config.group s.sa.toNat s.pta s.sb.toNat s.ptc =
        .ok ⟨x, y, evaluationResult Config.group (signedVal x) (signedVal y) s.pta s.sb.toNat s.ptc⟩ := by
  obtain ⟨x, y, hd, hx, hy⟩ := exists_decompose hsa
  exact ⟨x, y, hd, hx, hy, evaluate_eq_ok Config.group_lawful.toAbelian hsb hd _ _⟩

end Bodies

/-! ### Loads (R180 to R183, R185) -/

/-- The four loads of evaluator operands. -/
def loadOpcodes : List Opcode := [.neLoadSa, .neLoadSb, .neLoadPa, .neLoadPc]

/-- What a load that succeeds writes. -/
def loadWrite (i : Instr) (s : State) : State :=
  match i with
  | .neLoadSa x => writeSA x s
  | .neLoadSb x => writeSB x s
  | .neLoadPa pt => writePTA ((Config.ptDecode pt).getD default) s
  | .neLoadPc pt => writePTC ((Config.ptDecode pt).getD default) s
  | _ => s

/-- Whether a load succeeds depends on its operand only: one that has succeeded does so from every state without a
fault. -/
theorem exec_load {i : Instr} {s t : State} (hi : instrOpcode i ∈ loadOpcodes) (h : exec i s = .next t)
    (ht : t.fault = false) :
    s.fault = false ∧ ∀ u : State, u.fault = false → exec i u = .next (respond okCode [] (loadWrite i u)) := by
  cases exec_answers h with
  | refused hf => simp [hf] at ht
  | raised _ c => simp at ht
  | completed hf hc =>
    refine ⟨hf, fun u hu => ?_⟩
    cases hc with
    | neLoadSa hx => exact command_ok hu (neLoadSaBody_ok hx)
    | neLoadSb hx => exact command_ok hu (neLoadSbBody_ok hx)
    | neLoadPa hp =>
      rw [loadWrite, hp]
      exact command_ok hu (neLoadPaBody_ok hp)
    | neLoadPc hp =>
      rw [loadWrite, hp]
      exact command_ok hu (neLoadPcBody_ok hp)
    | _ => simp [instrOpcode, loadOpcodes] at hi
  | status hs => simp [hs, instrOpcode, loadOpcodes] at hi
  | cleared hs => simp [hs, instrOpcode, loadOpcodes] at hi

section LoadWrite

variable (i j : Instr) (s : State)

theorem loadWrite_fault : (loadWrite i s).fault = s.fault := by cases i <;> rfl

theorem loadWrite_respond (rc : Byte) (data : List Byte) :
    loadWrite i (respond rc data s) = respond rc data (loadWrite i s) := by cases i <;> rfl

theorem loadWrite_writeSA (x : Scalar) : loadWrite j (writeSA x s) =
    if .neLoadSa = instrOpcode j then loadWrite j s else writeSA x (loadWrite j s) := by cases j <;> rfl

theorem loadWrite_writeSB (x : Scalar) : loadWrite j (writeSB x s) =
    if .neLoadSb = instrOpcode j then loadWrite j s else writeSB x (loadWrite j s) := by cases j <;> rfl

theorem loadWrite_writePTA (p : Point) : loadWrite j (writePTA p s) =
    if .neLoadPa = instrOpcode j then loadWrite j s else writePTA p (loadWrite j s) := by cases j <;> rfl

theorem loadWrite_writePTC (p : Point) : loadWrite j (writePTC p s) =
    if .neLoadPc = instrOpcode j then loadWrite j s else writePTC p (loadWrite j s) := by cases j <;> rfl

/-- A load over one of the same register leaves the later one only; loads of different registers commute (R185). -/
theorem loadWrite_loadWrite : loadWrite j (loadWrite i s) =
    if instrOpcode i = instrOpcode j then loadWrite j s else loadWrite i (loadWrite j s) := by
  cases i with
  | neLoadSa x => exact loadWrite_writeSA j s x
  | neLoadSb x => exact loadWrite_writeSB j s x
  | neLoadPa pt => exact loadWrite_writePTA j s _
  | neLoadPc pt => exact loadWrite_writePTC j s _
  | _ => exact (ite_self _).symm

end LoadWrite

/-! ### The obligations -/

/-- Settles O18: the check of the scalar operand decides between the write and the fault. -/
theorem neLoadSaLoadsCanonicalScalars : Obligations.NeLoadSaLoadsCanonicalScalars := fun _ _ =>
  ⟨rfl, fun hf hx => command_ok hf (neLoadSaBody_ok hx), fun hf hx => command_error hf (neLoadSaBody_error hx),
    command_faulted⟩

/-- Settles O19: the check of the scalar operand decides between the write and the fault. -/
theorem neLoadSbLoadsCanonicalScalars : Obligations.NeLoadSbLoadsCanonicalScalars := fun _ _ =>
  ⟨rfl, fun hf hx => command_ok hf (neLoadSbBody_ok hx), fun hf hx => command_error hf (neLoadSbBody_error hx),
    command_faulted⟩

/-- Settles O20: what `pt_decode` makes of the payload decides between the write and the fault. -/
theorem neLoadPaLoadsDecodedPoints : Obligations.NeLoadPaLoadsDecodedPoints := fun _ _ =>
  ⟨rfl, fun _ hf hp => command_ok hf (neLoadPaBody_ok hp), fun hf hp => command_error hf (neLoadPaBody_error hp),
    command_faulted⟩

/-- Settles O21: what `pt_decode` makes of the payload decides between the write and the fault. -/
theorem neLoadPcLoadsDecodedPoints : Obligations.NeLoadPcLoadsDecodedPoints := fun _ _ =>
  ⟨rfl, fun _ hf hp => command_ok hf (neLoadPcBody_ok hp), fun hf hp => command_error hf (neLoadPcBody_error hp),
    command_faulted⟩

/-- Settles O24: one flag at 0 fails the test of all four. -/
theorem neStartNeedsAllFourOperands : Obligations.NeStartNeedsAllFourOperands := by
  refine fun s => ⟨rfl, fun hf hflags => command_error hf (neStartBody_error ?_), command_faulted⟩
  simpa only [evaluatorOperandsValid, Bool.and_eq_false_iff, or_assoc] using hflags

/-- Settles O26: R_V decides between the encoded R and the fault. -/
theorem neRdRReturnsTheEncodedResult : Obligations.NeRdRReturnsTheEncodedResult := fun _ =>
  ⟨rfl, fun hf hr => command_ok hf (neRdRBody_ok hr), fun hf hr => command_error hf (neRdRBody_error hr),
    command_faulted⟩

/-- Settles O22: each load that succeeds answers with its write, from any state on the way. -/
theorem loadsInAnyOrder : Obligations.LoadsInAnyOrder := by
  intro i j s t u v w hi hj hit ht hju hu hjv hiw
  obtain ⟨hs, hexec_i⟩ := exec_load hi hit ht
  obtain ⟨-, hexec_j⟩ := exec_load hj hju hu
  obtain rfl : v = respond okCode [] (loadWrite j s) := Host.Outcome.next.inj (hjv.symm.trans (hexec_j s hs))
  obtain rfl : t = respond okCode [] (loadWrite i s) := Host.Outcome.next.inj (hit.symm.trans (hexec_i s hs))
  have hu' : u = respond okCode [] (loadWrite j (loadWrite i s)) := by
    have h := Host.Outcome.next.inj (hju.symm.trans (hexec_j _ ht))
    rwa [loadWrite_respond] at h
  have hw' : w = respond okCode [] (loadWrite i (loadWrite j s)) := by
    have hv : (loadWrite j s).fault = false := (loadWrite_fault j s).trans hs
    have h := Host.Outcome.next.inj (hiw.symm.trans (hexec_i _ hv))
    rwa [loadWrite_respond] at h
  rw [hu', hw', loadWrite_loadWrite]
  exact ⟨fun hne => by rw [if_neg hne], fun heq => by rw [if_pos heq]⟩

/-- Settles O23: the evaluation of canonical operands exists, and its value is R197's formula. -/
theorem neStartComputesTheResult : Obligations.NeStartComputesTheResult := by
  intro s hf hsaV hsbV hptaV hptcV hsa hsb
  obtain ⟨x, y, -, hx, hy, hev⟩ := exists_evaluate_canonical hsa hsb
  have hvalid := evaluatorOperandsValid_iff.mpr ⟨hsaV, hsbV, hptaV, hptcV⟩
  exact ⟨x, y, _, command_ok hf (neStartBody_ok hvalid hev), hx, hy, rfl⟩

/-- Settles O25: both ways write `SA` to `A` and one decomposition of it to D0 and D1. -/
theorem neStartReducesLikeTheReducer : Obligations.NeStartReducesLikeTheReducer := by
  intro s t u v hf hsaV hsbV hptaV hptcV hsa hsb ht hu hv
  obtain ⟨x, y, hd, -, -, hev⟩ := exists_evaluate_canonical hsa hsb
  have hvalid := evaluatorOperandsValid_iff.mpr ⟨hsaV, hsbV, hptaV, hptcV⟩
  obtain rfl := Host.Outcome.next.inj (ht.symm.trans (command_ok hf (neStartBody_ok hvalid hev)))
  obtain rfl := Host.Outcome.next.inj (hu.symm.trans (command_ok hf (lrLoadABody_ok hsa)))
  have hfu : (respond okCode [] (writeA s.sa s)).fault = false := hf
  obtain rfl := Host.Outcome.next.inj (hv.symm.trans (command_ok hfu (lrStartBody_ok rfl hd)))
  exact ⟨hf, hf, rfl, rfl, rfl, rfl, rfl⟩

end Sys2Proof.Machine
end

section
/-! PROOFS. F_INVARIANT is out of reach (spec/43_naf_evaluator.md rule R201): the scalars a START finds in a sound block
are canonical, so none of the three defensive checks fails; no other command has one. -/

namespace Sys2Proof.Machine

/-! ### What a body can fault with -/

/-- A body whose one test faults with another cause does not fault with F_INVARIANT. -/
theorem ne_invariant_of_test {α : Type} {r : Except Cause α} {c : Cause} {pass fail : Prop} (htest : pass ∨ fail)
    (hok : pass → ∃ a, r = .ok a) (herror : fail → r = .error c) (hc : c ≠ .invariant) : r ≠ .error .invariant := by
  obtain hpass | hfail := htest
  · obtain ⟨a, rfl⟩ := hok hpass
    nofun
  · rw [herror hfail]
    exact fun h => hc (Except.error.inj h)

section Bodies

variable {s : State}

theorem lrLoadABody_ne_invariant (x : Scalar) : lrLoadABody x s ≠ .error .invariant :=
  ne_invariant_of_test (Nat.lt_or_ge _ _) (fun hx => ⟨_, lrLoadABody_ok hx⟩) lrLoadABody_error nofun

theorem neLoadSaBody_ne_invariant (x : Scalar) : neLoadSaBody x s ≠ .error .invariant :=
  ne_invariant_of_test (Nat.lt_or_ge _ _) (fun hx => ⟨_, neLoadSaBody_ok hx⟩) neLoadSaBody_error nofun

theorem neLoadSbBody_ne_invariant (x : Scalar) : neLoadSbBody x s ≠ .error .invariant :=
  ne_invariant_of_test (Nat.lt_or_ge _ _) (fun hx => ⟨_, neLoadSbBody_ok hx⟩) neLoadSbBody_error nofun

theorem neLoadPaBody_ne_invariant (pt : List Byte) : neLoadPaBody pt s ≠ .error .invariant :=
  ne_invariant_of_test (Option.eq_none_or_eq_some _).symm (fun ⟨_, hp⟩ => ⟨_, neLoadPaBody_ok hp⟩)
    neLoadPaBody_error nofun

theorem neLoadPcBody_ne_invariant (pt : List Byte) : neLoadPcBody pt s ≠ .error .invariant :=
  ne_invariant_of_test (Option.eq_none_or_eq_some _).symm (fun ⟨_, hp⟩ => ⟨_, neLoadPcBody_ok hp⟩)
    neLoadPcBody_error nofun

theorem lrRdD0Body_ne_invariant : lrRdD0Body s ≠ .error .invariant :=
  ne_invariant_of_test (Bool.eq_false_or_eq_true _) (fun hd => ⟨_, lrRdD0Body_ok hd⟩) lrRdD0Body_error nofun

theorem lrRdD1Body_ne_invariant : lrRdD1Body s ≠ .error .invariant :=
  ne_invariant_of_test (Bool.eq_false_or_eq_true _) (fun hd => ⟨_, lrRdD1Body_ok hd⟩) lrRdD1Body_error nofun

theorem neRdRBody_ne_invariant : neRdRBody s ≠ .error .invariant :=
  ne_invariant_of_test (Bool.eq_false_or_eq_true _) (fun hr => ⟨_, neRdRBody_ok hr⟩) neRdRBody_error nofun

/-- Behind the operand test of LR_START stands `to_si`, which a canonical `A` passes (R121 item 1). -/
theorem lrStartBody_ne_invariant (h : BlockInv s) : lrStartBody s ≠ .error .invariant := by
  refine ne_invariant_of_test (Bool.eq_false_or_eq_true s.aV) (fun ha => ?_) lrStartBody_error nofun
  obtain ⟨x, y, hd⟩ := decompose_canonical (h.a_canonical ha)
  exact ⟨_, lrStartBody_ok ha hd⟩

/-- Behind the operand test of NE_START stand all three checks, which canonical `SA` and `SB` pass (R201). -/
theorem neStartBody_ne_invariant (h : BlockInv s) : neStartBody s ≠ .error .invariant := by
  refine ne_invariant_of_test (Bool.eq_false_or_eq_true (evaluatorOperandsValid s)) (fun hv => ?_) neStartBody_error
    nofun
  obtain ⟨hsaV, hsbV, -, -⟩ := evaluatorOperandsValid_iff.mp hv
  obtain ⟨x, y, -, -, -, hev⟩ := exists_evaluate_canonical (h.sa_canonical hsaV) (h.sb_canonical hsbV)
  exact ⟨_, neStartBody_ok hv hev⟩

end Bodies

/-! ### CAUSE after a command -/

theorem causeCode_eq_invariant {c : Cause} (h : causeCode c = causeCode .invariant) : c = .invariant := by
  cases c with
  | invariant => rfl
  | _ => exact absurd h (by decide)

/-- An ordinary command that completes has not touched CAUSE. -/
theorem Completes.cause_eq {s u : State} {i : Instr} {data : List Byte} (h : Completes s i u data) :
    u.cause = s.cause := by
  cases h <;> rfl

theorem zero_ne_causeCode_invariant : (0#4 : BitVec 4) ≠ causeCode .invariant := by decide

theorem BlockInv.command_cause_ne_invariant {s t : State} {i : Instr}
    {body : State → Except Cause (State × List Byte)} (h : BlockInv s) (hf : s.fault = false)
    (hok : ∀ {u data}, body s = .ok (u, data) → Completes s i u data) (herror : body s ≠ .error .invariant)
    (ht : command body s = .next t) : t.cause ≠ causeCode .invariant := by
  obtain ⟨hf', -⟩ | ⟨-, u, data, hu, rfl⟩ | ⟨-, c, hc, rfl⟩ := command_next ht
  · simp [hf] at hf'
  · rw [respond_cause, (hok hu).cause_eq, h.cause_zero hf]
    exact zero_ne_causeCode_invariant
  · intro hcause
    exact herror (causeCode_eq_invariant hcause ▸ hc)

theorem BlockInv.exec_cause_ne_invariant {s t : State} {i : Instr} (h : BlockInv s) (hf : s.fault = false)
    (ht : exec i s = .next t) : t.cause ≠ causeCode .invariant := by
  cases i with
  | nop => exact h.command_cause_ne_invariant hf nopBody_completes nofun ht
  | lrLoadA x => exact h.command_cause_ne_invariant hf lrLoadABody_completes (lrLoadABody_ne_invariant x) ht
  | lrStart => exact h.command_cause_ne_invariant hf lrStartBody_completes (lrStartBody_ne_invariant h) ht
  | lrRdD0 => exact h.command_cause_ne_invariant hf lrRdD0Body_completes lrRdD0Body_ne_invariant ht
  | lrRdD1 => exact h.command_cause_ne_invariant hf lrRdD1Body_completes lrRdD1Body_ne_invariant ht
  | neLoadSa x => exact h.command_cause_ne_invariant hf neLoadSaBody_completes (neLoadSaBody_ne_invariant x) ht
  | neLoadSb x => exact h.command_cause_ne_invariant hf neLoadSbBody_completes (neLoadSbBody_ne_invariant x) ht
  | neLoadPa pt => exact h.command_cause_ne_invariant hf neLoadPaBody_completes (neLoadPaBody_ne_invariant pt) ht
  | neLoadPc pt => exact h.command_cause_ne_invariant hf neLoadPcBody_completes (neLoadPcBody_ne_invariant pt) ht
  | neStart => exact h.command_cause_ne_invariant hf neStartBody_completes (neStartBody_ne_invariant h) ht
  | neRdR => exact h.command_cause_ne_invariant hf neRdRBody_completes neRdRBody_ne_invariant ht
  | rdStatus =>
    obtain rfl := Host.Outcome.next.inj ((exec_rdStatus s).symm.trans ht)
    rw [respond_cause, h.cause_zero hf]
    exact zero_ne_causeCode_invariant
  | clear =>
    obtain rfl := Host.Outcome.next.inj ((exec_clear s).symm.trans ht)
    exact zero_ne_causeCode_invariant

/-! ### The obligation -/

/-- Settles O32: a command that decodes faults with another cause or not at all, and one that does not is illegal. -/
theorem invariantFaultIsNeverRaised : Obligations.InvariantFaultIsNeverRaised := by
  intro c s t h hf ht
  obtain ⟨i, -, hi⟩ | ⟨e, -, he⟩ := perform_cases c s
  · exact h.exec_cause_ne_invariant hf (hi ▸ ht)
  · obtain rfl := Host.Outcome.next.inj ((illegalCommand_clear hf).symm.trans (he ▸ ht))
    exact (by decide : causeCode .illegalCmd ≠ causeCode .invariant)

end Sys2Proof.Machine
end

section
/-! PROOFS. The system commands (spec/44_system_commands.md rules R220 to R222): the bytes of STATUS (R31, R89), and
what a command of format N answers to a payload (R96). -/

namespace Sys2Proof.Machine

/-! ### The bytes of STATUS (R31, R89) -/

/-- Dividing by two takes off the bit that `concat` has put below the others. -/
theorem toNat_concat_div_two_pow_succ {w : Nat} (x : BitVec w) (b : Bool) (n : Nat) :
    (x.concat b).toNat / 2 ^ (n + 1) = x.toNat / 2 ^ n := by
  rw [BitVec.toNat_concat, Nat.pow_succ', ← Nat.div_div_eq_div_mul]
  have hb := b.toNat_lt
  congr 1
  omega

section Layout

variable (s : State)

theorem statusWord_eq_concat :
    statusWord s = ((((((((0#20 ++ s.cause).concat s.fault).concat s.rV).concat s.ptcV).concat s.ptaV).concat
      s.sbV).concat s.saV).concat s.dV).concat s.aV := rfl

/-- Bits 7:0 of STATUS are FAULT and the seven valid flags. -/
theorem statusWord_flags :
    (statusWord s).getLsbD 0 = s.aV ∧ (statusWord s).getLsbD 1 = s.dV ∧ (statusWord s).getLsbD 2 = s.saV ∧
    (statusWord s).getLsbD 3 = s.sbV ∧ (statusWord s).getLsbD 4 = s.ptaV ∧ (statusWord s).getLsbD 5 = s.ptcV ∧
    (statusWord s).getLsbD 6 = s.rV ∧ (statusWord s).getLsbD 7 = s.fault := by
  simp [statusWord_eq_concat]

/-- Above the eight flags of STATUS stands CAUSE, and above CAUSE nothing. -/
theorem statusWord_div_256 : (statusWord s).toNat / 256 = s.cause.toNat := by
  show (statusWord s).toNat / 2 ^ 8 = s.cause.toNat
  simp only [statusWord_eq_concat, toNat_concat_div_two_pow_succ, Nat.pow_zero, Nat.div_one]
  rw [BitVec.toNat_append, BitVec.toNat_zero, Nat.zero_shiftLeft, Nat.zero_or]

theorem statusBytes_eq :
    statusBytes s = [(statusWord s).setWidth 8, responseCode s.cause, 0x00#8, 0x00#8] := by
  have hlt : s.cause.toNat < 256 := s.cause.isLt.trans (by norm_num)
  simp [statusBytes, toLe, statusWord_div_256, Nat.div_eq_of_lt hlt, responseCode]

end Layout

/-! ### Illegal commands (R96, R233) -/

theorem illegalCommand_faulted {s : State} (h : s.fault = true) : illegalCommand s = .next (refuseFaulted s) :=
  command_faulted h

/-- A command that is its opcode byte alone, offered with a payload, is illegal (R96). -/
theorem perform_unwantedPayload {op b : Byte} {p : List Byte} {o : Opcode} (ho : opcodeOfByte op = some o)
    (hn : opcodeFormat o = .n) (s : State) : perform ⟨op, b :: p⟩ s = illegalCommand s :=
  perform_error (decode_wrongLength ho (by simp [hn, payloadLength])) s

/-! ### The obligations -/

/-- Settles O11: NOP's body completes with the state it finds. -/
theorem nopDoesNothing : Obligations.NopDoesNothing := fun s =>
  ⟨rfl, fun hf => (exec_nop s).trans (command_ok hf rfl), fun hf => (exec_nop s).trans (command_faulted hf)⟩

/-- Settles O12: the response data are the bytes of STATUS; with a payload the command is illegal. -/
theorem rdStatusReturnsTheFlags : Obligations.RdStatusReturnsTheFlags := by
  refine ⟨fun s => ⟨rfl, (statusWord s).setWidth 8, responseCode s.cause, ?_, ?_⟩, fun s b p => ?_⟩
  · rw [exec_rdStatus, statusBytes_eq]
    rfl
  · simpa [responseCode_toNat] using statusWord_flags s
  · rw [perform_unwantedPayload (o := .rdStatus) rfl rfl]
    exact ⟨illegalCommand_clear, illegalCommand_faulted⟩

/-- Settles O13: the command answers from the reset state; with a payload it is illegal. -/
theorem clearZeroesEveryFlag : Obligations.ClearZeroesEveryFlag := by
  refine ⟨fun s => ⟨rfl, _, exec_clear s, ?_⟩, fun s b p => ?_⟩
  · obtain ⟨ha, hd, hsa, hsb, hpa, hpc, hr, hf, hc⟩ := returnToReset_statusClear s
    exact ⟨rfl, rfl, ha, hd, hsa, hsb, hpa, hpc, hr, hf, hc⟩
  · rw [perform_unwantedPayload (o := .clear) rfl rfl]
    exact ⟨illegalCommand_clear, illegalCommand_faulted⟩

end Sys2Proof.Machine
end

section
/-! PROOFS. The faulted state (spec/60_exceptions.md rules R236 to R238): how a command enters it, what it refuses, and
how it ends. -/

namespace Sys2Proof.Machine

section Faults

variable {s t : State} {i : Instr} {c : Command}

/-- A command that decodes is the one its instruction is sent as. -/
theorem eq_commandOf_of_decode (h : decode (commandBytes c) = .ok i) : c = commandOf i := by
  obtain ⟨-, henc⟩ := decodedBytesAreTheirEncoding _ _ h
  obtain ⟨hop, hpayload⟩ := List.cons.inj henc
  exact congrArg₂ Command.mk hop.symm hpayload.symm

/-! ### Fault entry (R236) -/

/-- Of the outcomes of an instruction in a block without a fault, only a raised fault sets FAULT. -/
theorem exists_raiseFault_of_exec (hf : s.fault = false) (ht : exec i s = .next t) (htf : t.fault = true) :
    ∃ k, t = raiseFault k s := by
  cases exec_answers ht with
  | refused hs => simp [hf] at hs
  | raised _ k => exact ⟨k, rfl⟩
  | completed _ hc => simp [hc.fault_eq, hf] at htf
  | status _ => simp [hf] at htf
  | cleared _ => simp at htf

theorem exists_raiseFault_of_perform (hf : s.fault = false) (ht : perform c s = .next t) (htf : t.fault = true) :
    ∃ k, t = raiseFault k s := by
  obtain ⟨i, -, hi⟩ | ⟨e, he, -⟩ := perform_cases c s
  · exact exists_raiseFault_of_exec hf (hi ▸ ht) htf
  · exact ⟨.illegalCmd, Host.Outcome.next.inj (ht.symm.trans (perform_illegal hf he))⟩

/-! ### Commands in a faulted block (R237) -/

/-- Every instruction answers (R276). -/
theorem exec_next (i : Instr) (s : State) : ∃ t, exec i s = .next t := by
  cases i <;> exact ⟨_, rfl⟩

/-- Every instruction but the two system commands is behind the `FAULT = 1` test. -/
theorem exec_faulted (hf : s.fault = true) (hstatus : i ≠ .rdStatus) (hclear : i ≠ .clear) :
    exec i s = .next (refuseFaulted s) := by
  obtain ⟨t, ht⟩ := exec_next i s
  rw [ht]
  cases exec_answers ht with
  | refused _ => rfl
  | raised h0 _ | completed h0 _ => simp [hf] at h0
  | status hi => exact absurd hi hstatus
  | cleared hi => exact absurd hi hclear

theorem perform_faulted (hf : s.fault = true) (hstatus : c ≠ commandOf .rdStatus) (hclear : c ≠ commandOf .clear) :
    perform c s = .next (refuseFaulted s) := by
  obtain ⟨i, hi, hperform⟩ | ⟨e, -, hperform⟩ := perform_cases c s
  · obtain rfl := eq_commandOf_of_decode hi
    rw [hperform]
    exact exec_faulted hf (ne_of_apply_ne commandOf hstatus) (ne_of_apply_ne commandOf hclear)
  · rw [hperform]
    exact illegalCommand_faulted hf

/-! ### Fault exit (R238) -/

theorem perform_rdStatus (s : State) :
    perform (commandOf .rdStatus) s = .next (respond okCode (statusBytes s) s) := rfl

theorem perform_clear (s : State) : perform (commandOf .clear) s = .next (respond okCode [] (returnToReset s)) := rfl

theorem perform_faulted_keeps (hf : s.fault = true) (hclear : c ≠ commandOf .clear) (ht : perform c s = .next t) :
    t.fault = true ∧ t.cause = s.cause := by
  by_cases hstatus : c = commandOf .rdStatus
  · subst hstatus
    obtain rfl := Host.Outcome.next.inj ((perform_rdStatus s).symm.trans ht)
    exact ⟨hf, rfl⟩
  · obtain rfl := Host.Outcome.next.inj ((perform_faulted hf hstatus hclear).symm.trans ht)
    exact ⟨hf, rfl⟩

/-- A step of a faulted block clears the fault, by reset or CLEAR, or keeps it with its cause. -/
theorem step_faulted_cases (hf : s.fault = true) (ht : step s = .next t) :
    (t.fault = false ∧ ((sampledPins s).rst = true ∨ s.port = .running (commandOf .clear))) ∨
    (t.fault = true ∧ t.cause = s.cause) := by
  obtain ⟨hr, rfl⟩ | ⟨-, ⟨c, hp, hc⟩ | ⟨-, c, -, rfl⟩ | ⟨-, -, rfl⟩ | ⟨r, -, -, rfl⟩ | ⟨r, -, -, rfl⟩⟩ :=
    step_cases ht
  · exact .inl ⟨rfl, .inl hr⟩
  · by_cases hclear : c = commandOf .clear
    · subst hclear
      obtain rfl := Host.Outcome.next.inj ((perform_clear _).symm.trans hc)
      exact .inl ⟨rfl, .inr hp⟩
    · exact .inr (perform_faulted_keeps (s := consumeInput s) hf hclear hc)
  all_goals exact .inr ⟨hf, rfl⟩

end Faults

/-! ### The obligations -/

/-- Settles O29: the only outcome that sets FAULT is `raiseFault`, with the code of one of the six causes. -/
theorem faultsArePrecise : Obligations.FaultsArePrecise := by
  intro c s t hf ht htf
  obtain ⟨k, rfl⟩ := exists_raiseFault_of_perform hf ht htf
  obtain ⟨hlo, hhi⟩ := causeCode_bounds k
  exact ⟨causeCode k, hlo, hhi, rfl⟩

/-- Settles O30: a command that decodes to neither system command, or to nothing, is refused. -/
theorem faultedBlockRefusesCommands : Obligations.FaultedBlockRefusesCommands := fun _ hf =>
  ⟨hf, fun _ => perform_faulted hf⟩

/-- Settles O31: a step that is neither a reset nor a CLEAR keeps FAULT and CAUSE. -/
theorem onlyClearAndResetEndAFault : Obligations.OnlyClearAndResetEndAFault := by
  intro s t ht hf
  obtain ⟨h0, hexit⟩ | ⟨h1, hcause⟩ := step_faulted_cases hf ht
  · exact ⟨fun _ => hexit, fun h1 => by simp [h0] at h1⟩
  · exact ⟨fun h0 => by simp [h1] at h0, fun _ => hcause⟩

end Sys2Proof.Machine
end

section
/-! PROOFS. Reset and the answer of every command (spec/70_reset_and_hazards.md rules R260, R261, R276): a command ends
with a response on offer, `rst` ends whatever the port was doing, and CLEAR is a reset that is answered. -/

namespace Sys2Proof.Machine

/-! ### Every outcome of a command offers a response (R276) -/

/-- An ordinary command offers a response: the recorded cause, the data of its body, or the cause it raises. -/
theorem command_responds {body : State → Except Cause (State × List Byte)} {s t : State}
    (h : command body s = .next t) : ∃ r, t.port = .responding r := by
  obtain ⟨-, rfl⟩ | ⟨-, u, data, -, rfl⟩ | ⟨-, c, -, rfl⟩ := command_next h
  · exact ⟨_, refuseFaulted_port s⟩
  · exact ⟨_, respond_port okCode data u⟩
  · exact ⟨_, raiseFault_port c s⟩

theorem Answers.responds {s t : State} {i : Instr} (h : Answers s i t) : ∃ r, t.port = .responding r := by
  cases h with
  | refused _ => exact ⟨_, refuseFaulted_port s⟩
  | raised _ c => exact ⟨_, raiseFault_port c s⟩
  | completed _ _ | status _ | cleared _ => exact ⟨_, respond_port ..⟩

/-! ### A step that samples `rst` (R260) -/

/-- Reset goes before everything else in a step (log 11). -/
theorem step_of_rst {s : State} (h : (sampledPins s).rst = true) : step s = .next (resetBlock (consumeInput s)) :=
  if_pos h

/-! ### CLEAR and reset (R261) -/

/-- Reset is CLEAR without its answer. -/
theorem resetBlock_eq_clear_unanswered (s : State) :
    resetBlock s = { respond okCode [] (returnToReset s) with port := .idle } := rfl

/-! ### The obligations -/

/-- Settles O10: a command that decodes answers as its instruction does, any other as an illegal command. -/
theorem everyCommandIsAnswered : Obligations.EveryCommandIsAnswered := by
  intro c s
  obtain ⟨i, -, hi⟩ | ⟨e, -, he⟩ := perform_cases c s
  · obtain ⟨t, ht⟩ := exec_next i s
    obtain ⟨r, hr⟩ := (exec_answers ht).responds
    exact ⟨t, r, hi.trans ht, hr⟩
  · obtain ⟨t, ht⟩ : ∃ t, illegalCommand s = .next t := command_answers _ s
    obtain ⟨r, hr⟩ := command_responds ht
    exact ⟨t, r, he.trans ht, hr⟩

/-- Settles O34: the step is a reset of the block, in which every field of STATUS is zero. -/
theorem resetPinResetsTheBlock : Obligations.ResetPinResetsTheBlock := by
  intro s hrst
  have hclear := resetBlock_statusClear (consumeInput s)
  have hstatus := hclear.statusWord_eq
  obtain ⟨ha, hd, hsa, hsb, hpa, hpc, hr, hf, hc⟩ := hclear
  exact ⟨_, step_of_rst hrst, resetBlock_port _, hstatus, resetBlock_inputs _,
    ha, hd, hsa, hsb, hpa, hpc, hr, hf, hc⟩

/-- Settles O35: both are a return to the reset state, and they write different ports. -/
theorem clearAndResetReachTheSameState : Obligations.ClearAndResetReachTheSameState := by
  intro s t ht
  obtain rfl := Host.Outcome.next.inj ((exec_clear s).symm.trans ht)
  exact ⟨respond_port okCode [] (returnToReset s), resetBlock_eq_clear_unanswered s⟩

end Sys2Proof.Machine
end
